-- ==== Sys2Proof/Word.lean ====
section
/-! DEFINITION. The word types of the CHIP-8 core (spec 00_scope.md R5, R7, R8). -/

namespace Sys2Proof

/-- A general register, a timer or a byte of memory: 8 bits, unsigned (R5, R7). -/
abbrev Byte := BitVec 8

/-- An instruction word, the pc, I or a call-stack slot: 16 bits (R5, R90). -/
abbrev Word := BitVec 16

/-- A general register's number, the field `x` or `y` (R20, R91). -/
abbrev RegIdx := Fin 16

/-- The address operand `nnn` (R91). -/
abbrev Addr12 := BitVec 12

end Sys2Proof
end

