-- ==== Sys2Proof/Syntax.lean ====
section
/-! DEFINITION. The 34 instructions, one constructor for each row of spec/opcode_table.json (spec 30_encoding.md R104).
The ignored bits of an encoding (R94, R95, R96) are no part of an instruction (R100). -/

namespace Sys2Proof

/-- The instructions of R104, in the table's order. -/
inductive Instr where
  /-- CLS (43_display.md R171). -/
  | cls
  /-- RET (40_control_flow.md R121). -/
  | ret
  /-- JP nnn (R122). -/
  | jp (nnn : Addr12)
  /-- CALL nnn (R123). -/
  | call (nnn : Addr12)
  /-- SE Vx,kk (R124). -/
  | seImm (x : RegIdx) (kk : Byte)
  /-- SNE Vx,kk (R125). -/
  | sneImm (x : RegIdx) (kk : Byte)
  /-- SE Vx,Vy (R126). -/
  | seReg (x y : RegIdx)
  /-- LD Vx,kk (41_immediate_random.md R141). -/
  | ldImm (x : RegIdx) (kk : Byte)
  /-- ADD Vx,kk (R142). -/
  | addImm (x : RegIdx) (kk : Byte)
  /-- LD Vx,Vy (42_alu.md R151). -/
  | ldReg (x y : RegIdx)
  /-- OR Vx,Vy (R152). -/
  | orReg (x y : RegIdx)
  /-- AND Vx,Vy (R153). -/
  | andReg (x y : RegIdx)
  /-- XOR Vx,Vy (R154). -/
  | xorReg (x y : RegIdx)
  /-- ADD Vx,Vy (R155). -/
  | addReg (x y : RegIdx)
  /-- SUB Vx,Vy (R156). -/
  | subReg (x y : RegIdx)
  /-- SHR Vx (R157). -/
  | shr (x : RegIdx)
  /-- SUBN Vx,Vy (R158). -/
  | subnReg (x y : RegIdx)
  /-- SHL Vx (R159). -/
  | shl (x : RegIdx)
  /-- SNE Vx,Vy (40_control_flow.md R127). -/
  | sneReg (x y : RegIdx)
  /-- LD I,nnn (41_immediate_random.md R143; log 5). -/
  | ldI (nnn : Addr12)
  /-- JP V0,nnn (40_control_flow.md R128). -/
  | jpV0 (nnn : Addr12)
  /-- RND Vx,kk (41_immediate_random.md R144). -/
  | rnd (x : RegIdx) (kk : Byte)
  /-- DRW Vx,Vy,n (43_display.md R172); `n` is a row count 0 to 15. -/
  | drw (x y : RegIdx) (n : Fin 16)
  /-- SKP Vx (44_keypad.md R191). -/
  | skp (x : RegIdx)
  /-- SKNP Vx (R192). -/
  | sknp (x : RegIdx)
  /-- LD Vx,DT (45_timer_index_memory.md R201). -/
  | ldVxDt (x : RegIdx)
  /-- LD Vx,K (44_keypad.md R193). -/
  | ldVxK (x : RegIdx)
  /-- LD DT,Vx (45_timer_index_memory.md R202). -/
  | ldDtVx (x : RegIdx)
  /-- LD ST,Vx (R203). -/
  | ldStVx (x : RegIdx)
  /-- ADD I,Vx (R204). -/
  | addI (x : RegIdx)
  /-- LD F,Vx (R205). -/
  | ldF (x : RegIdx)
  /-- LD B,Vx (R206). -/
  | ldB (x : RegIdx)
  /-- LD [I],Vx (R207); `x` is the last register stored. -/
  | storeRegs (x : RegIdx)
  /-- LD Vx,[I] (R208); `x` is the last register loaded. -/
  | loadRegs (x : RegIdx)
  deriving DecidableEq, Repr

end Sys2Proof
end

