-- ==== Sys2Proof/Config.lean ====
section
/-! DEFINITION. The fixed parameters of the hardware (spec 00_scope.md R5) and the one free value, the random byte
(spec 41_immediate_random.md R144). The font table, a parameter whose default the spec gives, is in Machine/Font.lean. -/

namespace Sys2Proof.Config

/-- MEM_SIZE (R5). -/
def memSize : Nat := 4096

/-- ADDR_MAX, the highest valid address (R5). -/
def addrMax : Nat := 0xFFF

/-- FONT_SIZE, the bytes of the font, which starts at address 0 (R5). -/
def fontSize : Nat := 80

/-- PROG_BASE, where load puts the image and where the pc starts (R5). -/
def progBase : Nat := 0x200

/-- PROG_MAX, the largest program image (R5). -/
def progMax : Nat := 3584

/-- STACK_DEPTH (R5). -/
def stackDepth : Nat := 16

/-- The random byte given to the n-th execution of RND: any byte, with no law on it and no relation between two of them
(R144, decision D8). It has no value in the model: log 2 (DESIGN CHOICE in its form, safe). -/
opaque rndByte : Nat → Byte

end Sys2Proof.Config
end

