-- ==== Sys2Proof/WellFormed.lean ====
section
/-! DEFINITION. The checks on raw data: an operand fits its field of the word (spec 30_encoding.md R91), and a program
image fits the memory (spec 70_reset_and_hazards.md R263). The operand types of Instr are as wide as the fields, so
every Instr passes (Laws/PerInstr.lean, family WellFormed). -/

namespace Sys2Proof

/-- One field of an instruction word with the value an operand puts there (R91): bits `hi` down to `lo`. -/
structure Operand where
  hi : Nat
  lo : Nat
  value : Nat
  deriving DecidableEq, Repr

/-- The value fits the field's width. -/
def Operand.fits (o : Operand) : Bool := decide (o.lo ≤ o.hi) && decide (o.value < 2 ^ (o.hi + 1 - o.lo))

/-- No two operands of one word share a bit. -/
def Operand.disjoint (o p : Operand) : Bool := decide (o.hi < p.lo) || decide (p.hi < o.lo)

/-- The operands of an instruction at the places R91 gives them. -/
def Instr.operands : Instr → List Operand
  | .cls => []
  | .ret => []
  | .jp nnn | .call nnn | .ldI nnn | .jpV0 nnn => [⟨11, 0, nnn.toNat⟩]
  | .seImm x kk | .sneImm x kk | .ldImm x kk | .addImm x kk | .rnd x kk => [⟨11, 8, x.val⟩, ⟨7, 0, kk.toNat⟩]
  | .seReg x y | .sneReg x y | .ldReg x y | .orReg x y | .andReg x y | .xorReg x y | .addReg x y | .subReg x y
  | .subnReg x y => [⟨11, 8, x.val⟩, ⟨7, 4, y.val⟩]
  | .drw x y n => [⟨11, 8, x.val⟩, ⟨7, 4, y.val⟩, ⟨3, 0, n.val⟩]
  | .shr x | .shl x | .skp x | .sknp x | .ldVxDt x | .ldVxK x | .ldDtVx x | .ldStVx x | .addI x | .ldF x | .ldB x
  | .storeRegs x | .loadRegs x => [⟨11, 8, x.val⟩]

/-- A list of operands is well formed: each fits its field and no two overlap. -/
def operandsWellFormed : List Operand → Bool
  | [] => true
  | o :: os => o.fits && os.all o.disjoint && operandsWellFormed os

/-- An instruction is well formed when its operands are. -/
def Instr.wellFormed (i : Instr) : Bool := operandsWellFormed i.operands

/-- The capacity check of load: at most 3584 bytes (R263, R264). -/
def imageFits (image : List Byte) : Bool := decide (image.length ≤ Config.progMax)

end Sys2Proof
end

