-- ==== Sys2Proof/Decode.lean ====
section
/-! DEFINITION. The decoder, total on words and on bytes (spec 30_encoding.md R90 to R99), the encoder written from the
same tables, and the opcode map of R104 as data. The numeric opcodes are the spec's own (decision D20; log 3). -/

namespace Sys2Proof

/-! ## The fields of a word (R91) -/

/-- `op = w[15:12]`, the family. -/
def fieldOp (w : Word) : BitVec 4 := w.extractLsb' 12 4

/-- `x = w[11:8]`. -/
def fieldX (w : Word) : RegIdx := (w.extractLsb' 8 4).toFin

/-- `y = w[7:4]`. -/
def fieldY (w : Word) : RegIdx := (w.extractLsb' 4 4).toFin

/-- `n = w[3:0]`. -/
def fieldN (w : Word) : Fin 16 := (w.extractLsb' 0 4).toFin

/-- `kk = w[7:0]`. -/
def fieldKk (w : Word) : Byte := w.extractLsb' 0 8

/-- `nnn = w[11:0]`. -/
def fieldNnn (w : Word) : Addr12 := w.extractLsb' 0 12

/-- The big-endian word of two bytes: the byte at the lower address is the high byte (R66, R90). -/
def wordOfBytes (hi lo : Byte) : Word := hi ++ lo

/-- The byte a word has at the lower address. -/
def highByte (w : Word) : Byte := w.extractLsb' 8 8

/-- The byte a word has at the higher address. -/
def lowByte (w : Word) : Byte := w.extractLsb' 0 8

/-! ## The decoder (R93): `none` is the value Unknown -/

/-- Family 0: the sub-code is `kk`, the `x` nibble is ignored (R94). -/
def decodeFamily0 (w : Word) : Option Instr :=
  match fieldKk w with
  | 0xE0#8 => some .cls
  | 0xEE#8 => some .ret
  | _ => none

/-- Family 8: the sub-code is `n`; SHR and SHL ignore `y` (R96). -/
def decodeFamily8 (w : Word) : Option Instr :=
  match fieldN w with
  | 0x0 => some (.ldReg (fieldX w) (fieldY w))
  | 0x1 => some (.orReg (fieldX w) (fieldY w))
  | 0x2 => some (.andReg (fieldX w) (fieldY w))
  | 0x3 => some (.xorReg (fieldX w) (fieldY w))
  | 0x4 => some (.addReg (fieldX w) (fieldY w))
  | 0x5 => some (.subReg (fieldX w) (fieldY w))
  | 0x6 => some (.shr (fieldX w))
  | 0x7 => some (.subnReg (fieldX w) (fieldY w))
  | 0xE => some (.shl (fieldX w))
  | _ => none

/-- Family E: the sub-code is `kk` (R97). -/
def decodeFamilyE (w : Word) : Option Instr :=
  match fieldKk w with
  | 0x9E#8 => some (.skp (fieldX w))
  | 0xA1#8 => some (.sknp (fieldX w))
  | _ => none

/-- Family F: the sub-code is `kk` (R98). -/
def decodeFamilyF (w : Word) : Option Instr :=
  match fieldKk w with
  | 0x07#8 => some (.ldVxDt (fieldX w))
  | 0x0A#8 => some (.ldVxK (fieldX w))
  | 0x15#8 => some (.ldDtVx (fieldX w))
  | 0x18#8 => some (.ldStVx (fieldX w))
  | 0x1E#8 => some (.addI (fieldX w))
  | 0x29#8 => some (.ldF (fieldX w))
  | 0x33#8 => some (.ldB (fieldX w))
  | 0x55#8 => some (.storeRegs (fieldX w))
  | 0x65#8 => some (.loadRegs (fieldX w))
  | _ => none

/-- First-level dispatch on the high nibble (R93); the families without a sub-code are R95's. The last line is met by
no word, since the nibble has 16 values. -/
def decodeWord (w : Word) : Option Instr :=
  match fieldOp w with
  | 0x0#4 => decodeFamily0 w
  | 0x1#4 => some (.jp (fieldNnn w))
  | 0x2#4 => some (.call (fieldNnn w))
  | 0x3#4 => some (.seImm (fieldX w) (fieldKk w))
  | 0x4#4 => some (.sneImm (fieldX w) (fieldKk w))
  | 0x5#4 => some (.seReg (fieldX w) (fieldY w))
  | 0x6#4 => some (.ldImm (fieldX w) (fieldKk w))
  | 0x7#4 => some (.addImm (fieldX w) (fieldKk w))
  | 0x8#4 => decodeFamily8 w
  | 0x9#4 => some (.sneReg (fieldX w) (fieldY w))
  | 0xA#4 => some (.ldI (fieldNnn w))
  | 0xB#4 => some (.jpV0 (fieldNnn w))
  | 0xC#4 => some (.rnd (fieldX w) (fieldKk w))
  | 0xD#4 => some (.drw (fieldX w) (fieldY w) (fieldN w))
  | 0xE#4 => decodeFamilyE w
  | 0xF#4 => decodeFamilyF w
  | _ => none

/-- Why bytes hold no instruction. -/
inductive DecodeReject where
  /-- Fewer than the two bytes every instruction has (R90). -/
  | truncated
  /-- The word is an unknown opcode (R99). -/
  | unknownOpcode (w : Word)
  deriving DecidableEq, Repr

/-- The decoder on bytes: the instruction at the head of the list and the bytes after it, or the reason there is
none. -/
def decode : List Byte → Except DecodeReject (Instr × List Byte)
  | hi :: lo :: rest =>
    match decodeWord (wordOfBytes hi lo) with
    | some i => .ok (i, rest)
    | none => .error (.unknownOpcode (wordOfBytes hi lo))
  | [_] => .error .truncated
  | [] => .error .truncated

/-- The bytes of a table word, as the hardware stores them: the row's `nbits` low bits of `w`, the rest 0, high byte
first. -/
def tableBytes (nbits w : Nat) : List Byte :=
  [highByte (BitVec.ofNat 16 (w % 2 ^ nbits)), lowByte (BitVec.ofNat 16 (w % 2 ^ nbits))]

/-- What the decoder reads from a word numbered as the opcode table numbers it. -/
def decodeTableWord (nbits w : Nat) : Option Instr :=
  match decode (tableBytes nbits w) with
  | .ok (i, _) => some i
  | .error _ => none

/-! ## The encoder: the canonical word of an instruction (R104), ignored bits 0 -/

/-- A word of the address view: `op`, `nnn`. -/
def packNnn (op : BitVec 4) (nnn : Addr12) : Word := op ++ nnn

/-- A word of the byte view: `op`, `x`, `kk`. -/
def packXkk (op : BitVec 4) (x : RegIdx) (kk : Byte) : Word := packNnn op (BitVec.ofFin (w := 4) x ++ kk)

/-- A word of the nibble view: `op`, `x`, `y`, `n`. -/
def packXyn (op : BitVec 4) (x y : RegIdx) (n : Fin 16) : Word :=
  packXkk op x (BitVec.ofFin (w := 4) y ++ BitVec.ofFin (w := 4) n)

/-- The canonical word of an instruction (R104). -/
def encode : Instr → Word
  | .cls => packXkk 0x0 0 0xE0
  | .ret => packXkk 0x0 0 0xEE
  | .jp nnn => packNnn 0x1 nnn
  | .call nnn => packNnn 0x2 nnn
  | .seImm x kk => packXkk 0x3 x kk
  | .sneImm x kk => packXkk 0x4 x kk
  | .seReg x y => packXyn 0x5 x y 0
  | .ldImm x kk => packXkk 0x6 x kk
  | .addImm x kk => packXkk 0x7 x kk
  | .ldReg x y => packXyn 0x8 x y 0x0
  | .orReg x y => packXyn 0x8 x y 0x1
  | .andReg x y => packXyn 0x8 x y 0x2
  | .xorReg x y => packXyn 0x8 x y 0x3
  | .addReg x y => packXyn 0x8 x y 0x4
  | .subReg x y => packXyn 0x8 x y 0x5
  | .shr x => packXyn 0x8 x 0 0x6
  | .subnReg x y => packXyn 0x8 x y 0x7
  | .shl x => packXyn 0x8 x 0 0xE
  | .sneReg x y => packXyn 0x9 x y 0
  | .ldI nnn => packNnn 0xA nnn
  | .jpV0 nnn => packNnn 0xB nnn
  | .rnd x kk => packXkk 0xC x kk
  | .drw x y n => packXyn 0xD x y n
  | .skp x => packXkk 0xE x 0x9E
  | .sknp x => packXkk 0xE x 0xA1
  | .ldVxDt x => packXkk 0xF x 0x07
  | .ldVxK x => packXkk 0xF x 0x0A
  | .ldDtVx x => packXkk 0xF x 0x15
  | .ldStVx x => packXkk 0xF x 0x18
  | .addI x => packXkk 0xF x 0x1E
  | .ldF x => packXkk 0xF x 0x29
  | .ldB x => packXkk 0xF x 0x33
  | .storeRegs x => packXkk 0xF x 0x55
  | .loadRegs x => packXkk 0xF x 0x65

/-- The two bytes of an instruction, high byte first (R66). -/
def encodeBytes (i : Instr) : List Byte := [highByte (encode i), lowByte (encode i)]

/-- The bits of the word that the instruction's decoding depends on; the others are ignored (R94, R95, R96, R100). -/
def careMask : Instr → Word
  | .cls | .ret => 0xF0FF
  | .seReg _ _ | .sneReg _ _ => 0xFFF0
  | .shr _ | .shl _ => 0xFF0F
  | .jp _ | .call _ | .seImm _ _ | .sneImm _ _ | .ldImm _ _ | .addImm _ _ | .ldReg _ _ | .orReg _ _ | .andReg _ _
  | .xorReg _ _ | .addReg _ _ | .subReg _ _ | .subnReg _ _ | .ldI _ | .jpV0 _ | .rnd _ _ | .drw _ _ _ | .skp _
  | .sknp _ | .ldVxDt _ | .ldVxK _ | .ldDtVx _ | .ldStVx _ | .addI _ | .ldF _ | .ldB _ | .storeRegs _
  | .loadRegs _ => 0xFFFF

/-! ## The opcode map of R104 as data -/

/-- One row of R104: a word `w` is the instruction when `w & mask = pattern`; `build` cuts its operands. -/
structure OpcodeRow where
  mask : Word
  pattern : Word
  build : Word → Instr

/-- A word belongs to a row (R104). -/
def OpcodeRow.hits (r : OpcodeRow) (w : Word) : Bool := (w &&& r.mask) == r.pattern

/-- No word belongs to both rows: they fix a common bit differently. -/
def OpcodeRow.apart (r q : OpcodeRow) : Bool := (r.pattern ^^^ q.pattern) &&& (r.mask &&& q.mask) != 0

/-- Rows 1 to 10 of R104. -/
def opcodeMapA : List OpcodeRow := [
  ⟨0xF0FF, 0x00E0, fun _ => .cls⟩,
  ⟨0xF0FF, 0x00EE, fun _ => .ret⟩,
  ⟨0xF000, 0x1000, fun w => .jp (fieldNnn w)⟩,
  ⟨0xF000, 0x2000, fun w => .call (fieldNnn w)⟩,
  ⟨0xF000, 0x3000, fun w => .seImm (fieldX w) (fieldKk w)⟩,
  ⟨0xF000, 0x4000, fun w => .sneImm (fieldX w) (fieldKk w)⟩,
  ⟨0xF000, 0x5000, fun w => .seReg (fieldX w) (fieldY w)⟩,
  ⟨0xF000, 0x9000, fun w => .sneReg (fieldX w) (fieldY w)⟩,
  ⟨0xF000, 0x6000, fun w => .ldImm (fieldX w) (fieldKk w)⟩,
  ⟨0xF000, 0x7000, fun w => .addImm (fieldX w) (fieldKk w)⟩]

/-- Rows 11 to 23 of R104. -/
def opcodeMapB : List OpcodeRow := [
  ⟨0xF00F, 0x8000, fun w => .ldReg (fieldX w) (fieldY w)⟩,
  ⟨0xF00F, 0x8001, fun w => .orReg (fieldX w) (fieldY w)⟩,
  ⟨0xF00F, 0x8002, fun w => .andReg (fieldX w) (fieldY w)⟩,
  ⟨0xF00F, 0x8003, fun w => .xorReg (fieldX w) (fieldY w)⟩,
  ⟨0xF00F, 0x8004, fun w => .addReg (fieldX w) (fieldY w)⟩,
  ⟨0xF00F, 0x8005, fun w => .subReg (fieldX w) (fieldY w)⟩,
  ⟨0xF00F, 0x8007, fun w => .subnReg (fieldX w) (fieldY w)⟩,
  ⟨0xF00F, 0x8006, fun w => .shr (fieldX w)⟩,
  ⟨0xF00F, 0x800E, fun w => .shl (fieldX w)⟩,
  ⟨0xF000, 0xA000, fun w => .ldI (fieldNnn w)⟩,
  ⟨0xF000, 0xB000, fun w => .jpV0 (fieldNnn w)⟩,
  ⟨0xF000, 0xC000, fun w => .rnd (fieldX w) (fieldKk w)⟩,
  ⟨0xF000, 0xD000, fun w => .drw (fieldX w) (fieldY w) (fieldN w)⟩]

/-- Rows 24 to 34 of R104. -/
def opcodeMapC : List OpcodeRow := [
  ⟨0xF0FF, 0xE09E, fun w => .skp (fieldX w)⟩,
  ⟨0xF0FF, 0xE0A1, fun w => .sknp (fieldX w)⟩,
  ⟨0xF0FF, 0xF007, fun w => .ldVxDt (fieldX w)⟩,
  ⟨0xF0FF, 0xF015, fun w => .ldDtVx (fieldX w)⟩,
  ⟨0xF0FF, 0xF018, fun w => .ldStVx (fieldX w)⟩,
  ⟨0xF0FF, 0xF01E, fun w => .addI (fieldX w)⟩,
  ⟨0xF0FF, 0xF00A, fun w => .ldVxK (fieldX w)⟩,
  ⟨0xF0FF, 0xF029, fun w => .ldF (fieldX w)⟩,
  ⟨0xF0FF, 0xF033, fun w => .ldB (fieldX w)⟩,
  ⟨0xF0FF, 0xF055, fun w => .storeRegs (fieldX w)⟩,
  ⟨0xF0FF, 0xF065, fun w => .loadRegs (fieldX w)⟩]

/-- The 34 rows of R104, in its order. -/
def opcodeMap : List OpcodeRow := opcodeMapA ++ opcodeMapB ++ opcodeMapC

end Sys2Proof
end

