-- ==== Sys2Proof/Machine/Font.lean ====
section
/-! DEFINITION. FONT, the 80 font bytes that reset writes at 0x000, a parameter of the model (spec 00_scope.md R6,
70_reset_and_hazards.md R262, decision D19), and the default the spec gives it, whose bytes its source does not have
(log 4: UNVERIFIED, unsafe). -/

namespace Sys2Proof.Machine

/-- A font table, FONT[0] to FONT[79] (R262): FONT_SIZE bytes, five for each of 16 glyphs (R5). -/
abbrev Font := Vector Byte 80

/-- The glyphs of digits 0 to 7, five bytes each (R262). -/
def fontLow : List Byte :=
  [0xF0, 0x90, 0x90, 0x90, 0xF0] ++ [0x20, 0x60, 0x20, 0x20, 0x70] ++ [0xF0, 0x10, 0xF0, 0x80, 0xF0] ++
  [0xF0, 0x10, 0xF0, 0x10, 0xF0] ++ [0x90, 0x90, 0xF0, 0x10, 0x10] ++ [0xF0, 0x80, 0xF0, 0x10, 0xF0] ++
  [0xF0, 0x80, 0xF0, 0x90, 0xF0] ++ [0xF0, 0x10, 0x20, 0x40, 0x40]

/-- The glyphs of digits 8 to F (R262). -/
def fontHigh : List Byte :=
  [0xF0, 0x90, 0xF0, 0x90, 0xF0] ++ [0xF0, 0x90, 0xF0, 0x10, 0xF0] ++ [0xF0, 0x90, 0xF0, 0x90, 0x90] ++
  [0xE0, 0x90, 0xE0, 0x90, 0xE0] ++ [0xF0, 0x80, 0x80, 0x80, 0xF0] ++ [0xE0, 0x90, 0x90, 0x90, 0xE0] ++
  [0xF0, 0x80, 0xF0, 0x80, 0xF0] ++ [0xF0, 0x80, 0xF0, 0x80, 0x80]

/-- The default of FONT (R262). -/
def defaultFont : Font := ⟨(fontLow ++ fontHigh).toArray, rfl⟩

end Sys2Proof.Machine
end

