-- ==== Sys2Proof/Machine/State.lean ====
section
/-! DEFINITION. The state of the core (spec 10_state.md), the faults of spec 60_exceptions.md R221, and the state after
reset (spec 10_state.md R39). -/

namespace Sys2Proof.Machine

/-- The 4096-byte memory (R37), as the bytes that differ from the reset contents under the machine's FONT: addresses
strictly rising, all below 4096, and no entry equal to what an unlisted address reads as (Machine/Mem.lean; log 15). -/
abbrev Memory := List Host.Cell

/-- The frame buffer: 32 rows, each of 64 cells; row `y`, column `x` (R32). -/
abbrev FrameBuffer := Vector (Vector Bool 64) 32

/-- The four faults of R221. A step that raises one TAKES it (R224: HALT and CAUSE are written, every other write of the
step is discarded), which is a next state; so no step answers one as a stop (log 1; safe: the halted core goes on as R231
says). -/
inductive Fault where
  /-- CAUSE 1, raised by CALL when 16 frames are active (R223). Safe. -/
  | stackOverflow
  /-- CAUSE 2, raised by RET when no frame is active (R223). Safe. -/
  | stackUnderflow
  /-- CAUSE 3, raised by the fetch, DRW, LD B,Vx, LD [I],Vx and LD Vx,[I] on an address above 0xFFF (R222). Safe. -/
  | addressOutOfRange
  /-- CAUSE 4, raised by SKP and SKNP when V[x] > 15 (R225). Safe. -/
  | keyIndexOutOfRange
  deriving DecidableEq, Repr

/-- The refusals. No step of this model answers one: every instruction has its meaning. -/
inductive Refusal where
  /-- Raised by an arm of `exec` whose instruction has no meaning yet. Safe. No arm is left so. -/
  | notModelled (mnemonic : String)
  deriving DecidableEq, Repr

/-- The output levels of the last step (R40): wires, not state of the core (R38); kept here because a step answers a
State (log 11). -/
structure Outputs where
  /-- `sound_active` of the last step (R241). -/
  soundActive : Bool
  /-- The UnknownOpcode report of the last step: `unk` is "some", `unk_word` the word (R226). -/
  report : Option Word
  deriving DecidableEq, Repr

/-- The outputs of a step that makes no report and no sound (R224, R231). -/
def Outputs.quiet : Outputs := { soundActive := false, report := none }

/-- The state of the core. -/
structure State where
  /-- V0 to VF; VF, number 15, is also the flag register (R20, R21). -/
  v : Vector Byte 16
  /-- The index register I (R26). -/
  i : Word
  /-- The program counter (R23). -/
  pc : Word
  /-- SP, the number of active frames, 0 to 16 (R27; log 6). -/
  sp : Fin 17
  /-- The call stack; the slot the spec numbers k (1 to 16) is at index k - 1 (R28; log 6). -/
  stack : Vector Word 16
  /-- The delay timer DT (R30). -/
  dt : Byte
  /-- The sound timer ST (R31). -/
  st : Byte
  /-- The memory Mem (R37). -/
  mem : Memory
  /-- The frame buffer FB (R32). -/
  fb : FrameBuffer
  /-- The key state KEY; true means pressed (R34). -/
  key : Vector Bool 16
  /-- The draw flag DRAW (R35). -/
  draw : Bool
  /-- The fault latch HALT (R36). -/
  halt : Bool
  /-- The fault cause CAUSE (R36, R221). -/
  cause : BitVec 3
  /-- FONT, the parameter that reset writes to memory (R6, R262, U10). It is an argument of the machine, not state of the
  core: `State.resetWith` takes it, and no step and no operation of the outside changes it (log 20). -/
  font : Font
  /-- The MODEL's own field: how many random bytes were drawn, the number of the next free byte (R144; log 2). -/
  rndCount : Nat
  /-- The outputs of the last step (R40; log 11). -/
  out : Outputs
  deriving DecidableEq, Repr

/-- The state after reset of the machine whose FONT is `f` (R39, R260, R262). Memory lists nothing: an unlisted address
reads as its reset contents. `rndCount` and `out` are the model's own (log 2, log 11). -/
def State.resetWith (f : Font) : State where
  v := Vector.replicate 16 0
  i := 0
  pc := 0x200
  sp := 0
  stack := Vector.replicate 16 0
  dt := 0
  st := 0
  mem := []
  fb := Vector.replicate 32 (Vector.replicate 64 false)
  key := Vector.replicate 16 false
  draw := false
  halt := false
  cause := 0
  font := f
  rndCount := 0
  out := Outputs.quiet

/-- The state after reset with the default FONT (R262, decision D19; log 4). -/
def State.reset : State := State.resetWith defaultFont

end Sys2Proof.Machine
end

