-- ==== Sys2Proof/Machine/Mem.lean ====
section
/-! DEFINITION. The memory as a canonical list of cells (spec 20_memory.md R60, R62, R64). They take the
machine's FONT, on which the reset contents depend, and are total on natural numbers; the range check of R65 is in
Machine/Ops.lean. -/

namespace Sys2Proof.Machine

/-- What an address that is not listed reads as: its reset contents, FONT below 80 and 0 elsewhere (R39; log 15). -/
def resetByte (f : Font) (a : Nat) : Byte := if h : a < Config.fontSize then f.get ⟨a, h⟩ else 0

/-- The byte at an address. -/
def Memory.read (f : Font) : Memory → Nat → Byte
  | [], a => resetByte f a
  | (k, b) :: m, a => if k = a then b else Memory.read f m a

/-- A cell before a list, left out when it holds what the address reads as anyway. -/
def Memory.put (f : Font) (a : Nat) (b : Byte) (m : Memory) : Memory :=
  if b = resetByte f a then m else (a, b) :: m

/-- Write one byte, keeping the canonical form. -/
def Memory.write (f : Font) : Memory → Nat → Byte → Memory
  | [], a, b => Memory.put f a b []
  | (k, c) :: m, a, b =>
    if a < k then Memory.put f a b ((k, c) :: m)
    else if a = k then Memory.put f a b m
    else (k, c) :: Memory.write f m a b

/-- `n` bytes from `a` upward. -/
def Memory.readBytes (f : Font) (m : Memory) : Nat → Nat → List Byte
  | _, 0 => []
  | a, n + 1 => m.read f a :: Memory.readBytes f m (a + 1) n

/-- Write bytes from `a` upward, in ascending order (R64). -/
def Memory.writeBytes (f : Font) (m : Memory) : Nat → List Byte → Memory
  | _, [] => m
  | a, b :: bs => Memory.writeBytes f (m.write f a b) (a + 1) bs

/-- The canonical form from a lower bound on the addresses: strictly rising, in the 4096-byte space, no entry equal to
the reset contents. -/
def Memory.wfFrom (f : Font) : Nat → Memory → Bool
  | _, [] => true
  | lo, (k, b) :: m =>
    decide (lo ≤ k) && decide (k < Config.memSize) && decide (b ≠ resetByte f k) && Memory.wfFrom f (k + 1) m

/-- The canonical form (log 15). -/
def Memory.wf (f : Font) (m : Memory) : Bool := Memory.wfFrom f 0 m

end Sys2Proof.Machine
end

