-- ==== Sys2Proof/Machine/Ops.lean ====
section
/-! DEFINITION. The named operations over registers, stack and memory, the taking of a fault, and the two ends of a step
(spec 10_state.md, 20_memory.md, 60_exceptions.md). -/

namespace Sys2Proof.Machine

/-! ## Registers and pc -/

/-- The number of VF, the flag register (R21). -/
def vf : RegIdx := 15

/-- Read V[x] (R20). -/
def State.reg (s : State) (x : RegIdx) : Byte := s.v.get x

/-- Write V[x]; no register is hard-wired (R20). -/
def State.setReg (s : State) (x : RegIdx) (b : Byte) : State := { s with v := s.v.set x.val b x.isLt }

/-- Write I (R26). -/
def State.setI (s : State) (w : Word) : State := { s with i := w }

/-- Write pc (R23). -/
def State.setPc (s : State) (w : Word) : State := { s with pc := w }

/-- The default advance, `pc <- (pc + 2) mod 2^16` (R112). -/
def State.advance (s : State) : State := s.setPc (s.pc + 2)

/-- The advance of a skip: 4 when the condition holds, else 2 (R24). -/
def State.skipIf (s : State) (c : Bool) : State := s.setPc (s.pc + if c then 4 else 2)

/-- Write DT (R30). -/
def State.setDt (s : State) (b : Byte) : State := { s with dt := b }

/-- Write ST (R31). -/
def State.setSt (s : State) (b : Byte) : State := { s with st := b }

/-- Write one key slot (R34). -/
def State.setKey (s : State) (k : Fin 16) (p : Bool) : State := { s with key := s.key.set k.val p k.isLt }

/-- Replace the memory. -/
def State.setMem (s : State) (m : Memory) : State := { s with mem := m }

/-- Replace the frame buffer (R32). -/
def State.setFb (s : State) (fb : FrameBuffer) : State := { s with fb := fb }

/-- Write the draw flag (R35). -/
def State.setDraw (s : State) (b : Bool) : State := { s with draw := b }

/-- Drive the outputs (R40). -/
def State.setOut (s : State) (o : Outputs) : State := { s with out := o }

/-- Count one random byte as drawn, so that the next draw is another free byte (R144; log 2). -/
def State.countRnd (s : State) : State := { s with rndCount := s.rndCount + 1 }

/-! ## Faults (R221, R224) -/

/-- The cause code of a fault (R221). -/
def Fault.code : Fault → BitVec 3
  | .stackOverflow => 1
  | .stackUnderflow => 2
  | .addressOutOfRange => 3
  | .keyIndexOutOfRange => 4

/-- Taking a fault in the state before the step: HALT and CAUSE are written, the outputs are quiet, nothing else changes
and pc stays at the faulting instruction (R224). There is no return from it (R230). -/
def State.takeFault (s : State) (f : Fault) : State := { s with halt := true, cause := f.code, out := Outputs.quiet }

/-- The end of a meaning that may raise: its new state, or the fault taken in the state before the instruction, so that
every write of the instruction is discarded (R224). -/
def State.orTakeFault (s : State) : Except Fault State → Host.Outcome State Fault Refusal
  | .ok t => .next t
  | .error f => .next (s.takeFault f)

/-! ## The call stack (R27, R28, R123, R121) -/

/-- Push pc as the frame SP + 1; StackOverflow when 16 frames are active. -/
def State.pushFrame (s : State) : Except Fault State :=
  if h : s.sp.val < 16 then
    .ok { s with stack := s.stack.set s.sp.val s.pc h, sp := ⟨s.sp.val + 1, by omega⟩ }
  else .error .stackOverflow

/-- Pop the frame SP: its word and the state with one frame less; the slot keeps its value (R28). StackUnderflow when no
frame is active. -/
def State.popFrame (s : State) : Except Fault (Word × State) :=
  if h : 0 < s.sp.val then
    .ok (s.stack.get ⟨s.sp.val - 1, by omega⟩, { s with sp := ⟨s.sp.val - 1, by omega⟩ })
  else .error .stackUnderflow

/-! ## Memory with the range check (R62 to R65, R78) -/

/-- The byte at an address, for reading a state. -/
def State.byteAt (s : State) (a : Nat) : Byte := s.mem.read s.font a

/-- `MemRead(addr, 1)` (R62). -/
def State.memRead (s : State) (addr : Nat) : Except Fault Byte :=
  if addr ≤ Config.addrMax then .ok (s.byteAt addr) else .error .addressOutOfRange

/-- `MemRead(addr, 2)`, the fetch of a big-endian word (R63, R111). -/
def State.fetchWord (s : State) : Except Fault Word :=
  match s.memRead s.pc.toNat, s.memRead (s.pc.toNat + 1) with
  | .ok hi, .ok lo => .ok (wordOfBytes hi lo)
  | _, _ => .error .addressOutOfRange

/-- The range check made before anything changes: all of `n` bytes from `addr` are in the address space; no byte is (R78,
R175). -/
def rangeOk (addr n : Nat) : Bool := decide (n = 0) || decide (addr + n - 1 ≤ Config.addrMax)

/-- Read `n` bytes from `addr` upward, or AddressOutOfRange. -/
def State.loadBytes (s : State) (addr n : Nat) : Except Fault (List Byte) :=
  if rangeOk addr n then .ok (s.mem.readBytes s.font addr n) else .error .addressOutOfRange

/-- `MemWrite` of bytes from `addr` upward, or AddressOutOfRange with nothing written (R64, R78). -/
def State.storeBytes (s : State) (addr : Nat) (bs : List Byte) : Except Fault State :=
  if rangeOk addr bs.length then .ok (s.setMem (s.mem.writeBytes s.font addr bs)) else .error .addressOutOfRange

/-! ## The ends of a step (R110) -/

/-- One timer's count: down by 1, staying at 0 (R240). -/
def countDown (b : Byte) : Byte := if b = 0 then 0 else b - 1

/-- The tick with the report of the step: both timers count down and `sound_active` says whether ST was above 0
(R240, R241). -/
def State.tick (s : State) (report : Option Word) : State :=
  { s with dt := countDown s.dt, st := countDown s.st, out := { soundActive := decide (0 < s.st.toNat), report := report } }

/-- The end of a step whose word decoded: the tick, or, when the instruction took a fault, no tick (R110, R224). The
step began with HALT = 0, so HALT = 1 here says that a fault was taken. -/
def endStep : Host.Outcome State Fault Refusal → Host.Outcome State Fault Refusal
  | .next t => .next (if t.halt then t else t.tick none)
  | .fault f => .fault f
  | .refused r => .refused r

/-- The step of a halted core: nothing changes and the outputs are quiet (R231). -/
def State.haltedStep (s : State) : State := s.setOut Outputs.quiet

/-- The step of an unknown opcode: pc + 2, the tick and the report (R99, R226). -/
def State.unknownStep (s : State) (w : Word) : State := s.advance.tick (some w)

end Sys2Proof.Machine
end

