-- ==== Sys2Proof/Machine/Flags.lean ====
section
/-! DEFINITION. Results and flags of the arithmetic (spec 42_alu.md R155 to R160, 45_timer_index_memory.md R204): each is
computed exactly on natural numbers and then reduced. -/

namespace Sys2Proof.Machine

/-- A flag as VF holds it: 1 or 0 (R21). -/
def flagByte (c : Bool) : Byte := if c then 1 else 0

/-- The sum mod 256 and the carry out (R155). -/
def addFlag (a b : Byte) : Byte × Bool := (BitVec.ofNat 8 (a.toNat + b.toNat), decide (255 < a.toNat + b.toNat))

/-- The difference a - b mod 256 and the flag a > b, strict (R156; log 9). -/
def subFlag (a b : Byte) : Byte × Bool := (BitVec.ofNat 8 (a.toNat + 256 - b.toNat), decide (b.toNat < a.toNat))

/-- The logical shift right by one and the bit shifted out (R157). -/
def shrFlag (a : Byte) : Byte × Bool := (a >>> 1, a.getLsbD 0)

/-- The shift left by one and the bit shifted out (R159). -/
def shlFlag (a : Byte) : Byte × Bool := (a <<< 1, a.getLsbD 7)

/-- I + V[x] mod 2^16 and whether the unreduced sum leaves the 12-bit space (R204). -/
def addIFlag (i : Word) (b : Byte) : Word × Bool :=
  (BitVec.ofNat 16 (i.toNat + b.toNat), decide (Config.addrMax < i.toNat + b.toNat))

/-- Write a result and its flag: the result first, the flag last, so the flag stays when the result register is VF
(R29; log 8). -/
def State.setResultFlag (s : State) (x : RegIdx) (r : Byte × Bool) : State :=
  (s.setReg x r.1).setReg vf (flagByte r.2)

end Sys2Proof.Machine
end

