-- ==== Sys2Proof/Machine/Operands.lean ====
section
/-! DEFINITION. The operand forms (spec 30_encoding.md R92, 45_timer_index_memory.md R200): addresses, key indices, BCD
digits, register lists. -/

namespace Sys2Proof.Machine

/-- `zext_16(nnn)` (R92). -/
def zext16 (nnn : Addr12) : Word := nnn.setWidth 16

/-- The one data address: I plus a small offset, as an unreduced natural number (R62, R200). -/
def State.dataAddr (s : State) : Nat := s.i.toNat

/-- The key index in a register, or KeyIndexOutOfRange; it is not reduced to its low nibble (R194). -/
def keyIndex (b : Byte) : Except Fault (Fin 16) :=
  if h : b.toNat < 16 then .ok ⟨b.toNat, h⟩ else .error .keyIndexOutOfRange

/-- The key state at an index (R34). -/
def State.keyDown (s : State) (k : Fin 16) : Bool := s.key.get k

/-- The least pressed key, by the ascending scan of R193. -/
def State.lowestKey (s : State) : Option (Fin 16) := (List.finRange 16).find? s.keyDown

/-- The glyph address of a register value, 5 bytes per glyph, unmasked (R205). -/
def glyphAddr (b : Byte) : Word := BitVec.ofNat 16 (b.toNat * 5)

/-- Hundreds, tens and ones, one byte each (R206). -/
def bcdDigits (b : Byte) : List Byte :=
  [BitVec.ofNat 8 (b.toNat / 100), BitVec.ofNat 8 (b.toNat / 10 % 10), BitVec.ofNat 8 (b.toNat % 10)]

/-- V[0] to V[x], the bytes LD [I],Vx stores (R207). -/
def State.regsUpTo (s : State) (x : RegIdx) : List Byte := s.v.toList.take (x.val + 1)

/-- Put bytes into registers from number `k` upward. -/
def putRegs : Nat → List Byte → Vector Byte 16 → Vector Byte 16
  | _, [], v => v
  | k, b :: bs, v => putRegs (k + 1) bs (v.setIfInBounds k b)

/-- Load V[0] upward from a list of bytes (R208). -/
def State.setRegsFrom (s : State) (bs : List Byte) : State := { s with v := putRegs 0 bs s.v }

/-- I after LD [I],Vx or LD Vx,[I]: `(I + x + 1) mod 2^16` (R207, R208). -/
def State.bumpI (s : State) (x : RegIdx) : State := s.setI (BitVec.ofNat 16 (s.i.toNat + x.val + 1))

end Sys2Proof.Machine
end

