-- ==== Sys2Proof/Machine/Alu.lean ====
section
/-! DEFINITION. Family 8, register arithmetic and logic (spec 42_alu.md). Sources are read first, the result is written
before the flag (R29, R150). -/

namespace Sys2Proof.Machine

/-- LD Vx,Vy (R151). -/
def execLdReg (x y : RegIdx) (s : State) : Host.Outcome State Fault Refusal :=
  .next (s.setReg x (s.reg y)).advance

/-- OR Vx,Vy; VF is left alone (R152). -/
def execOr (x y : RegIdx) (s : State) : Host.Outcome State Fault Refusal :=
  .next (s.setReg x (s.reg x ||| s.reg y)).advance

/-- AND Vx,Vy (R153). -/
def execAnd (x y : RegIdx) (s : State) : Host.Outcome State Fault Refusal :=
  .next (s.setReg x (s.reg x &&& s.reg y)).advance

/-- XOR Vx,Vy (R154). -/
def execXor (x y : RegIdx) (s : State) : Host.Outcome State Fault Refusal :=
  .next (s.setReg x (s.reg x ^^^ s.reg y)).advance

/-- ADD Vx,Vy (R155). -/
def execAddReg (x y : RegIdx) (s : State) : Host.Outcome State Fault Refusal :=
  .next (s.setResultFlag x (addFlag (s.reg x) (s.reg y))).advance

/-- SUB Vx,Vy: V[x] - V[y] (R156). -/
def execSubReg (x y : RegIdx) (s : State) : Host.Outcome State Fault Refusal :=
  .next (s.setResultFlag x (subFlag (s.reg x) (s.reg y))).advance

/-- SHR Vx (R157). -/
def execShr (x : RegIdx) (s : State) : Host.Outcome State Fault Refusal :=
  .next (s.setResultFlag x (shrFlag (s.reg x))).advance

/-- SUBN Vx,Vy: V[y] - V[x] (R158). -/
def execSubnReg (x y : RegIdx) (s : State) : Host.Outcome State Fault Refusal :=
  .next (s.setResultFlag x (subFlag (s.reg y) (s.reg x))).advance

/-- SHL Vx (R159). -/
def execShl (x : RegIdx) (s : State) : Host.Outcome State Fault Refusal :=
  .next (s.setResultFlag x (shlFlag (s.reg x))).advance

end Sys2Proof.Machine
end

