-- ==== Sys2Proof/Machine/ControlFlow.lean ====
section
/-! DEFINITION. The control flow instructions (spec 40_control_flow.md). -/

namespace Sys2Proof.Machine

/-- RET (R121). -/
def execRet (s : State) : Host.Outcome State Fault Refusal :=
  s.orTakeFault (match s.popFrame with
    | .ok (w, t) => .ok (t.setPc (w + 2))
    | .error f => .error f)

/-- JP nnn (R122). -/
def execJp (nnn : Addr12) (s : State) : Host.Outcome State Fault Refusal := .next (s.setPc (zext16 nnn))

/-- CALL nnn: the frame holds the address of this CALL (R123). -/
def execCall (nnn : Addr12) (s : State) : Host.Outcome State Fault Refusal :=
  s.orTakeFault (match s.pushFrame with
    | .ok t => .ok (t.setPc (zext16 nnn))
    | .error f => .error f)

/-- SE Vx,kk (R124). -/
def execSeImm (x : RegIdx) (kk : Byte) (s : State) : Host.Outcome State Fault Refusal :=
  .next (s.skipIf (decide (s.reg x = kk)))

/-- SNE Vx,kk (R125). -/
def execSneImm (x : RegIdx) (kk : Byte) (s : State) : Host.Outcome State Fault Refusal :=
  .next (s.skipIf (decide (s.reg x ≠ kk)))

/-- SE Vx,Vy (R126). -/
def execSeReg (x y : RegIdx) (s : State) : Host.Outcome State Fault Refusal :=
  .next (s.skipIf (decide (s.reg x = s.reg y)))

/-- SNE Vx,Vy (R127). -/
def execSneReg (x y : RegIdx) (s : State) : Host.Outcome State Fault Refusal :=
  .next (s.skipIf (decide (s.reg x ≠ s.reg y)))

/-- JP V0,nnn; the sum is not reduced to 12 bits (R128). -/
def execJpV0 (nnn : Addr12) (s : State) : Host.Outcome State Fault Refusal :=
  .next (s.setPc (BitVec.ofNat 16 (nnn.toNat + (s.reg 0).toNat)))

end Sys2Proof.Machine
end

