-- ==== Sys2Proof/Machine/Display.lean ====
section
/-! DEFINITION. The frame buffer's write logic, the sprite engine, CLS and DRW (spec 43_display.md). -/

namespace Sys2Proof.Machine

/-! ## The frame buffer (10_state.md R32, R33) -/

/-- `FB[y][x]`. -/
def FrameBuffer.cell (fb : FrameBuffer) (y : Fin 32) (x : Fin 64) : Bool := (fb.get y).get x

/-- All cells off (R171). -/
def FrameBuffer.blank : FrameBuffer := Vector.replicate 32 (Vector.replicate 64 false)

/-- The XOR write, the only write DRW makes: new cell = old cell XOR sprite bit (R177). -/
def FrameBuffer.xorWrite (fb : FrameBuffer) (y : Fin 32) (x : Fin 64) (bit : Bool) : FrameBuffer :=
  fb.set y.val ((fb.get y).set x.val (fb.cell y x ^^ bit) x.isLt) y.isLt

/-- The cells in row-major order: `FB[y][x]` is entry `y × 64 + x` (R33). -/
def FrameBuffer.rowMajor (fb : FrameBuffer) : List Bool := fb.toList.flatMap Vector.toList

/-! ## The sprite engine (R172 to R181) -/

/-- A column with wrap-around (R174). -/
def wrapCol (n : Nat) : Fin 64 := ⟨n % 64, Nat.mod_lt _ (by decide)⟩

/-- A row with wrap-around (R174). -/
def wrapRow (n : Nat) : Fin 32 := ⟨n % 32, Nat.mod_lt _ (by decide)⟩

/-- The frame buffer and the collision flag while a sprite is drawn. -/
structure Blit where
  fb : FrameBuffer
  coll : Bool
  deriving DecidableEq, Repr

/-- One sprite bit: the collision looks at the cell before the write and is never cleared (R176, R177). -/
def Blit.pixel (t : Blit) (y : Fin 32) (x : Fin 64) (bit : Bool) : Blit :=
  { fb := t.fb.xorWrite y x bit, coll := t.coll || (bit && t.fb.cell y x) }

/-- The columns `c` to 7 of one sprite row `b` at screen row `y`: the most significant bit is column 0 (R173). `fuel`
counts the columns left, so the row begins with fuel 8 and column `8 - fuel`. -/
def Blit.columns (ox : Nat) (y : Fin 32) (b : Byte) : Nat → Blit → Blit
  | 0, t => t
  | fuel + 1, t => Blit.columns ox y b fuel (t.pixel y (wrapCol (ox + (7 - fuel))) (b.getLsbD fuel))

/-- The sprite rows from row `r` on, in ascending order (R172). -/
def Blit.rows (ox oy : Nat) : Nat → List Byte → Blit → Blit
  | _, [], t => t
  | r, b :: bs, t => Blit.rows ox oy (r + 1) bs (Blit.columns ox (wrapRow (oy + r)) b 8 t)

/-- Draw the sprite rows with the origin column and row of the coordinates (R172, R174). -/
def drawSprite (fb : FrameBuffer) (vx vy : Byte) (sprite : List Byte) : Blit :=
  Blit.rows (vx.toNat % 64) (vy.toNat % 32) 0 sprite { fb := fb, coll := false }

/-- The end of DRW: the drawn buffer, VF the collision, DRAW set, pc advanced (R172, R178). -/
def State.drawn (s : State) (t : Blit) : State := (((s.setFb t.fb).setReg vf (flagByte t.coll)).setDraw true).advance

/-! ## The instructions -/

/-- CLS (R171). -/
def execCls (s : State) : Host.Outcome State Fault Refusal :=
  .next ((s.setFb FrameBuffer.blank).setDraw true).advance

/-- DRW Vx,Vy,n: coordinates and I are sampled first, the range check comes before any change (R172, R181). -/
def execDrw (x y : RegIdx) (n : Fin 16) (s : State) : Host.Outcome State Fault Refusal :=
  s.orTakeFault (match s.loadBytes s.dataAddr n.val with
    | .ok sprite => .ok (s.drawn (drawSprite s.fb (s.reg x) (s.reg y) sprite))
    | .error f => .error f)

end Sys2Proof.Machine
end

