-- ==== Sys2Proof/Machine/Immediate.lean ====
section
/-! DEFINITION. The immediate loads and the random instruction (spec 41_immediate_random.md). None writes VF as a flag
(R140). -/

namespace Sys2Proof.Machine

/-- LD Vx,kk (R141). -/
def execLdImm (x : RegIdx) (kk : Byte) (s : State) : Host.Outcome State Fault Refusal :=
  .next (s.setReg x kk).advance

/-- ADD Vx,kk, without carry out (R142). -/
def execAddImm (x : RegIdx) (kk : Byte) (s : State) : Host.Outcome State Fault Refusal :=
  .next (s.setReg x (s.reg x + kk)).advance

/-- LD I,nnn (R143; log 5). -/
def execLdI (nnn : Addr12) (s : State) : Host.Outcome State Fault Refusal := .next (s.setI (zext16 nnn)).advance

/-- RND Vx,kk when the random byte of the step is `rnd` (R144). -/
def rndWith (rnd : Byte) (x : RegIdx) (kk : Byte) (s : State) : State := (s.setReg x (rnd &&& kk)).countRnd.advance

/-- RND Vx,kk: the byte is free, a fresh one for each execution (R144; log 2). -/
def execRnd (x : RegIdx) (kk : Byte) (s : State) : Host.Outcome State Fault Refusal :=
  .next (rndWith (Config.rndByte s.rndCount) x kk s)

end Sys2Proof.Machine
end

