-- ==== Sys2Proof/Machine/Keypad.lean ====
section
/-! DEFINITION. The keypad instructions (spec 44_keypad.md). -/

namespace Sys2Proof.Machine

/-- The two key skips: skip when the key whose index is in V[x] is in the wanted state; KeyIndexOutOfRange when
V[x] > 15 (R191, R192, R194). -/
def State.skipOnKey (s : State) (x : RegIdx) (wanted : Bool) : Except Fault State :=
  match keyIndex (s.reg x) with
  | .ok k => .ok (s.skipIf (s.keyDown k == wanted))
  | .error f => .error f

/-- SKP Vx (R191). -/
def execSkp (x : RegIdx) (s : State) : Host.Outcome State Fault Refusal := s.orTakeFault (s.skipOnKey x true)

/-- SKNP Vx (R192). -/
def execSknp (x : RegIdx) (s : State) : Host.Outcome State Fault Refusal := s.orTakeFault (s.skipOnKey x false)

/-- LD Vx,K: the least pressed key; with no key pressed nothing changes, and the same instruction runs again in the next
step (R193, R195). -/
def execLdVxK (x : RegIdx) (s : State) : Host.Outcome State Fault Refusal :=
  .next (match s.lowestKey with
    | some k => (s.setReg x (BitVec.ofNat 8 k.val)).advance
    | none => s)

end Sys2Proof.Machine
end

