-- ==== Sys2Proof/Machine/TimerIndexMemory.lean ====
section
/-! DEFINITION. The timer, index register and memory instructions (spec 45_timer_index_memory.md). -/

namespace Sys2Proof.Machine

/-- LD Vx,DT: DT before this step's tick (R201). -/
def execLdVxDt (x : RegIdx) (s : State) : Host.Outcome State Fault Refusal := .next (s.setReg x s.dt).advance

/-- LD DT,Vx (R202). -/
def execLdDtVx (x : RegIdx) (s : State) : Host.Outcome State Fault Refusal := .next (s.setDt (s.reg x)).advance

/-- LD ST,Vx (R203). -/
def execLdStVx (x : RegIdx) (s : State) : Host.Outcome State Fault Refusal := .next (s.setSt (s.reg x)).advance

/-- ADD I,Vx: the old VF is the addend when x is 15, and VF ends as the flag (R204). -/
def execAddI (x : RegIdx) (s : State) : Host.Outcome State Fault Refusal :=
  .next ((s.setI (addIFlag s.i (s.reg x)).1).setReg vf (flagByte (addIFlag s.i (s.reg x)).2)).advance

/-- LD F,Vx (R205). -/
def execLdF (x : RegIdx) (s : State) : Host.Outcome State Fault Refusal := .next (s.setI (glyphAddr (s.reg x))).advance

/-- LD B,Vx (R206). -/
def execLdB (x : RegIdx) (s : State) : Host.Outcome State Fault Refusal :=
  s.orTakeFault (match s.storeBytes s.dataAddr (bcdDigits (s.reg x)) with
    | .ok t => .ok t.advance
    | .error f => .error f)

/-- LD [I],Vx: V[0] to V[x] from I upward, then I moves on (R207). -/
def execStoreRegs (x : RegIdx) (s : State) : Host.Outcome State Fault Refusal :=
  s.orTakeFault (match s.storeBytes s.dataAddr (s.regsUpTo x) with
    | .ok t => .ok (t.bumpI x).advance
    | .error f => .error f)

/-- LD Vx,[I]: V[0] to V[x] from I upward, then I moves on (R208). -/
def execLoadRegs (x : RegIdx) (s : State) : Host.Outcome State Fault Refusal :=
  s.orTakeFault (match s.loadBytes s.dataAddr (x.val + 1) with
    | .ok bs => .ok ((s.setRegsFrom bs).bumpI x).advance
    | .error f => .error f)

end Sys2Proof.Machine
end

