-- ==== Sys2Proof/Machine/Step.lean ====
section
/-! DEFINITION. One step (spec 30_encoding.md R110): fetch, decode, execute, tick. -/

namespace Sys2Proof.Machine

/-- One step: a halted core does nothing (R231), a fetch may fault (R111), an unknown opcode is reported (R99), and a
decoded instruction runs and is followed by the tick (R110, R240). -/
def step (s : State) : Host.Outcome State Fault Refusal :=
  if s.halt then .next s.haltedStep
  else
    match s.fetchWord with
    | .error f => .next (s.takeFault f)
    | .ok w =>
      match decodeWord w with
      | none => .next (s.unknownStep w)
      | some i => endStep (exec i s)

/-- The state with a table word stored at the pc, high byte first, so that the next step fetches it. It needs a core that
is not halted and pc ≤ 0xFFE, as after reset (at a higher pc no word can be fetched and nothing is stored); only memory
changes (log 16). -/
def State.withFetchWord (s : State) (nbits w : Nat) : State :=
  match s.storeBytes s.pc.toNat (tableBytes nbits w) with
  | .ok t => t
  | .error _ => s

end Sys2Proof.Machine
end

