-- ==== Sys2Proof/Machine/External.lean ====
section
/-! DEFINITION. What the outside does to the core between steps (spec 70_reset_and_hazards.md R260 to R271), the ports
(spec 10_state.md R40), and a run as the sequence of steps and outside operations. -/

namespace Sys2Proof.Machine

/-- The byte source of a load: the image, or a source that cannot be read (R264). How it is read is out of scope
(00_scope.md R4). -/
inductive ProgramSource where
  | image (bytes : List Byte)
  | unreadable
  deriving DecidableEq, Repr

/-- The two causes of a LoadError (60_exceptions.md R227, 70_reset_and_hazards.md R264). -/
inductive LoadError where
  /-- The image is larger than 3584 bytes. -/
  | capacity
  /-- The byte source cannot be read. -/
  | io
  deriving DecidableEq, Repr

/-- The outside's operations (R266); a coordinate, a key index outside its range is not in the interface (R269, R270). -/
inductive ExternalOp where
  | reset
  | load (src : ProgramSource)
  | setKey (k : Fin 16) (pressed : Bool)
  | takeDrawFlag
  | readPixel (x : Fin 64) (y : Fin 32)
  deriving DecidableEq, Repr

/-- What an operation gives back. -/
inductive ExternalReply where
  | done
  | loadError (e : LoadError)
  | bit (b : Bool)
  deriving DecidableEq, Repr

/-- Reset (R260): the reset state, with the machine's own FONT in memory (R262). The count of random bytes drawn is not
the core's and goes on, so that a reset does not bring the same free bytes again (log 2). -/
def State.doReset (s : State) : State := { State.resetWith s.font with rndCount := s.rndCount }

/-- Load (R263, R264): a reset, then the image at 0x200; a failed load leaves the reset state. -/
def State.doLoad (s : State) : ProgramSource → State × ExternalReply
  | .image bytes =>
    if imageFits bytes then
      (s.doReset.setMem (s.doReset.mem.writeBytes s.font Config.progBase bytes), .done)
    else (s.doReset, .loadError .capacity)
  | .unreadable => (s.doReset, .loadError .io)

/-- One operation of the outside: the state after it and the reply. -/
def State.external (s : State) : ExternalOp → State × ExternalReply
  | .reset => (s.doReset, .done)
  | .load src => s.doLoad src
  | .setKey k pressed => (s.setKey k pressed, .done)
  | .takeDrawFlag => (s.setDraw false, .bit s.draw)
  | .readPixel x y => (s, .bit (s.fb.cell y x))

/-- The output ports (R40). `unk_word` has a value only with a report (log 11). -/
structure Ports where
  draw : Bool
  soundActive : Bool
  unk : Bool
  unkWord : Option Word
  halted : Bool
  cause : BitVec 3
  deriving DecidableEq, Repr

/-- The levels of the output ports after a step (R40). -/
def State.ports (s : State) : Ports where
  draw := s.draw
  soundActive := s.out.soundActive
  unk := s.out.report.isSome
  unkWord := s.out.report
  halted := s.halt
  cause := s.cause

/-- The machine whose FONT is `f` (R6, R262): the same step, another state after reset. `Sys2Proof.core` is the one with
the default FONT. -/
def coreWith (f : Font) : Host.Core :=
  { State := State, Fault := Fault, Refusal := Refusal, step := step, reset := State.resetWith f }

/-- What happens to the core: a step, or an operation of the outside, never one inside the other (R41, R271; log 13). -/
inductive Event where
  | step
  | external (op : ExternalOp)
  deriving DecidableEq, Repr

/-- One event. -/
def event : Event → State → Host.Outcome State Fault Refusal
  | .step, s => step s
  | .external op, s => .next (s.external op).1

/-- A run: the events in order, as the outside asks for them (R266, R272). -/
def runEvents : List Event → State → Host.Outcome State Fault Refusal
  | [], s => .next s
  | e :: es, s =>
    match event e s with
    | .next t => runEvents es t
    | .fault f => .fault f
    | .refused r => .refused r

end Sys2Proof.Machine
end

