-- ==== Sys2Proof/Safety.lean ====
section
/-! DEFINITION. The terms claims are stated in: frames (what an instruction leaves unchanged), the taking of a fault, the
invariant every step keeps, the idle state, a run that has gone wrong. -/

namespace Sys2Proof.Machine

/-- What an instruction may write, beside pc. Everything not named here is kept. -/
structure Effects where
  /-- The registers it may write. -/
  regs : List RegIdx := []
  /-- It may write I. -/
  i : Bool := false
  /-- It may write SP. -/
  sp : Bool := false
  /-- The indexes of the stack slots it may write (slot k of the spec is index k - 1). -/
  slots : List (Fin 16) := []
  /-- It may write DT. -/
  dt : Bool := false
  /-- It may write ST. -/
  st : Bool := false
  /-- The memory bytes it may write: a first address and a length. -/
  bytes : Option (Nat × Nat) := none
  /-- It may write the frame buffer and DRAW. -/
  display : Bool := false
  /-- It draws a random byte (the model's own count, log 2). -/
  rnd : Bool := false
  deriving DecidableEq, Repr

/-- An address is outside the bytes an instruction may write. -/
def Effects.outside (e : Effects) (a : Nat) : Prop :=
  match e.bytes with
  | none => True
  | some (lo, n) => a < lo ∨ lo + n ≤ a

/-- The frame: `t` agrees with `s` on everything the effects do not name. KEY, HALT, CAUSE and the outputs are written by
no instruction that does not fault, and FONT by nothing. -/
structure Keeps (e : Effects) (s t : State) : Prop where
  regs : ∀ j, j ∉ e.regs → t.reg j = s.reg j
  i : e.i = false → t.i = s.i
  sp : e.sp = false → t.sp = s.sp
  slots : ∀ k, k ∉ e.slots → t.stack.get k = s.stack.get k
  dt : e.dt = false → t.dt = s.dt
  st : e.st = false → t.st = s.st
  bytes : ∀ a, e.outside a → t.byteAt a = s.byteAt a
  cells : e.display = false → ∀ y x, t.fb.cell y x = s.fb.cell y x
  draw : e.display = false → t.draw = s.draw
  keys : ∀ k, t.keyDown k = s.keyDown k
  halt : t.halt = s.halt
  cause : t.cause = s.cause
  font : t.font = s.font
  rnd : e.rnd = false → t.rndCount = s.rndCount
  out : t.out = s.out

/-- An outcome takes a fault in `s` with the cause `code`: HALT and CAUSE are written, the outputs are quiet, every other
part of the state is as before and pc is the instruction's address (60_exceptions.md R224). -/
def TakesFault (o : Host.Outcome State Fault Refusal) (s : State) (code : BitVec 3) : Prop :=
  o = .next { s with halt := true, cause := code, out := { soundActive := false, report := none } }

/-- The words of a mask and pattern all decode to an instruction built from the word's fields (30_encoding.md R104). -/
def Encodes (mask pattern : Word) (build : Word → Instr) : Prop :=
  ∀ w : Word, w &&& mask = pattern → decodeWord w = some (build w)

/-- The big-endian word at an address (20_memory.md R63). -/
def State.wordAt (s : State) (a : Nat) : Word := wordOfBytes (s.byteAt a) (s.byteAt (a + 1))

/-- The instruction the next step fetches and decodes is `i`. -/
def State.NextIs (s : State) (i : Instr) : Prop := s.pc.toNat ≤ 0xFFE ∧ decodeWord (s.wordAt s.pc.toNat) = some i

/-- The same instruction's effect several times in a row, without the ticks. -/
def repeatExec (i : Instr) : Nat → State → Host.Outcome State Fault Refusal
  | 0, s => .next s
  | k + 1, s =>
    match repeatExec i k s with
    | .next t => exec i t
    | .fault f => .fault f
    | .refused r => .refused r

/-- A 1 bit of the sprite of `n` rows at I, drawn at the coordinates `vx`, `vy`, lands on the cell at row `j`, column
`i`: sprite pixel (c, r) lands on column (vx + c) mod 64, row (vy + r) mod 32, and its bit is bit 7 - c of byte r
(43_display.md R173, R174). -/
def State.SpriteOn (s : State) (vx vy : Byte) (n : Nat) (j : Fin 32) (i : Fin 64) : Prop :=
  ∃ r c, r < n ∧ c < 8 ∧ j.val = (vy.toNat + r) % 32 ∧ i.val = (vx.toNat + c) % 64 ∧
    (s.byteAt (s.dataAddr + r)).getLsbD (7 - c) = true

/-- The seven instructions that write VF as a side effect (10_state.md R21). -/
def writesFlag : Instr → Bool
  | .addReg _ _ | .subReg _ _ | .subnReg _ _ | .shr _ | .shl _ | .addI _ | .drw _ _ _ => true
  | .cls | .ret | .jp _ | .call _ | .seImm _ _ | .sneImm _ _ | .seReg _ _ | .sneReg _ _ | .ldImm _ _ | .addImm _ _
  | .ldReg _ _ | .orReg _ _ | .andReg _ _ | .xorReg _ _ | .ldI _ | .jpV0 _ | .rnd _ _ | .skp _ | .sknp _ | .ldVxDt _
  | .ldVxK _ | .ldDtVx _ | .ldStVx _ | .ldF _ | .ldB _ | .storeRegs _ | .loadRegs _ => false

/-- The registers V[0] to V[x] (45_timer_index_memory.md R208). -/
def regsTo (x : RegIdx) : List RegIdx := (List.finRange 16).filter (fun j => decide (j ≤ x))

/-- What each instruction writes, beside pc, when it does not fault: the column "writes" of 10_state.md R22, and the
stack, timers, memory and display by the instruction's own rule. -/
def effects (s : State) : Instr → Effects
  | .cls => { display := true }
  | .ret => { sp := true }
  | .call _ => { sp := true, slots := (List.finRange 16).filter (fun k => decide (k.val = s.sp.val)) }
  | .jp _ | .seImm _ _ | .sneImm _ _ | .seReg _ _ | .sneReg _ _ | .jpV0 _ | .skp _ | .sknp _ => {}
  | .ldImm x _ | .addImm x _ | .ldReg x _ | .orReg x _ | .andReg x _ | .xorReg x _ | .ldVxDt x | .ldVxK x =>
    { regs := [x] }
  | .rnd x _ => { regs := [x], rnd := true }
  | .addReg x _ | .subReg x _ | .subnReg x _ | .shr x | .shl x => { regs := [x, 15] }
  | .ldI _ | .ldF _ => { i := true }
  | .addI _ => { regs := [15], i := true }
  | .drw _ _ _ => { regs := [15], display := true }
  | .ldDtVx _ => { dt := true }
  | .ldStVx _ => { st := true }
  | .ldB _ => { bytes := some (s.dataAddr, 3) }
  | .storeRegs x => { i := true, bytes := some (s.dataAddr, x.val + 1) }
  | .loadRegs x => { regs := regsTo x, i := true }

/-- CAUSE agrees with HALT: 0 without a fault, one of the four codes with one (60_exceptions.md R221). -/
def State.LatchOk (s : State) : Prop :=
  if s.halt then s.cause = 1 ∨ s.cause = 2 ∨ s.cause = 3 ∨ s.cause = 4 else s.cause = 0

/-- Every active frame holds the address of a fetched CALL (40_control_flow.md R121). -/
def State.FramesOk (s : State) : Prop := ∀ k : Fin 16, k.val < s.sp.val → (s.stack.get k).toNat ≤ 0xFFE

/-- The invariant every step keeps: memory in its canonical form, the fault latch consistent, the frames addresses of
CALLs, and pc at most 0x10FE (10_state.md R25). -/
structure State.Inv (s : State) : Prop where
  mem : s.mem.wf s.font = true
  latch : s.LatchOk
  frames : s.FramesOk
  pc : s.pc.toNat ≤ 0x10FE

/-- The idle state (70_reset_and_hazards.md R272): not halted, a jump to itself at pc, both timers 0. -/
structure State.Idle (s : State) : Prop where
  running : s.halt = false
  fetchable : s.pc.toNat ≤ 0xFFE
  jump : s.fetchWord = .ok (encode (.jp (s.pc.setWidth 12)))
  delay : s.dt = 0
  sound : s.st = 0

/-- A run has gone wrong when the core is halted (60_exceptions.md R231): a halted state is never the final state of a
successful run. -/
def State.GoneWrong (s : State) : Prop := s.halt = true

/-- A state the core can be in: reset, with any FONT, then any steps and outside operations. -/
inductive Reachable : State → Prop where
  | reset (f : Font) : Reachable (State.resetWith f)
  | event {s t : State} (e : Event) : Reachable s → Machine.event e s = .next t → Reachable t

end Sys2Proof.Machine
end

