-- ==== Sys2Proof/Certificates/Slice0/Obligations.lean ====
section
/-! DEFINITION. The statements for the provers. A statement named after an instruction gives its result, its faults and its
frame; every sum is on natural numbers, as the spec writes it. The encodings have statements of their own. -/

open Sys2Proof Sys2Proof.Machine

/-! ## Encoding -/

/-- Decode and encode agree, on the bytes in memory order, whatever follows (30_encoding.md R66, R90, R104). -/
def Obligations.DecodeOfEncodeIsIdentity : Prop :=
  ∀ (i : Instr) (rest : List Byte), i.wellFormed = true ∧ decode (encodeBytes i ++ rest) = .ok (i, rest)

/-- The other direction: an instruction's canonical word is the word it was decoded from, on every bit that is not an
ignored one (R94, R95, R96, R100). -/
def Obligations.EncodeOfDecodeKeepsCareBits : Prop :=
  ∀ (w : Word) (i : Instr), decodeWord w = some i → encode i = w &&& careMask i

/-- The encodings of R104, with the fields of R91 cut from the word and the ignored bits left out of the mask. The numeric
values are the spec's own, "[from general knowledge, not in source]" (decision D20, log 3). -/
def Obligations.EveryEncodingHasItsMaskAndFields : Prop :=
  Encodes 0xF0FF 0x00E0 (fun _ => .cls) ∧
  Encodes 0xF0FF 0x00EE (fun _ => .ret) ∧
  Encodes 0xF000 0x1000 (fun w => .jp (fieldNnn w)) ∧
  Encodes 0xF000 0x2000 (fun w => .call (fieldNnn w)) ∧
  Encodes 0xF000 0x3000 (fun w => .seImm (fieldX w) (fieldKk w)) ∧
  Encodes 0xF000 0x4000 (fun w => .sneImm (fieldX w) (fieldKk w)) ∧
  Encodes 0xF000 0x5000 (fun w => .seReg (fieldX w) (fieldY w)) ∧
  Encodes 0xF000 0x9000 (fun w => .sneReg (fieldX w) (fieldY w)) ∧
  Encodes 0xF000 0x6000 (fun w => .ldImm (fieldX w) (fieldKk w)) ∧
  Encodes 0xF000 0x7000 (fun w => .addImm (fieldX w) (fieldKk w)) ∧
  Encodes 0xF00F 0x8000 (fun w => .ldReg (fieldX w) (fieldY w)) ∧
  Encodes 0xF00F 0x8001 (fun w => .orReg (fieldX w) (fieldY w)) ∧
  Encodes 0xF00F 0x8002 (fun w => .andReg (fieldX w) (fieldY w)) ∧
  Encodes 0xF00F 0x8003 (fun w => .xorReg (fieldX w) (fieldY w)) ∧
  Encodes 0xF00F 0x8004 (fun w => .addReg (fieldX w) (fieldY w)) ∧
  Encodes 0xF00F 0x8005 (fun w => .subReg (fieldX w) (fieldY w)) ∧
  Encodes 0xF00F 0x8006 (fun w => .shr (fieldX w)) ∧
  Encodes 0xF00F 0x8007 (fun w => .subnReg (fieldX w) (fieldY w)) ∧
  Encodes 0xF00F 0x800E (fun w => .shl (fieldX w)) ∧
  Encodes 0xF000 0xA000 (fun w => .ldI (fieldNnn w)) ∧
  Encodes 0xF000 0xB000 (fun w => .jpV0 (fieldNnn w)) ∧
  Encodes 0xF000 0xC000 (fun w => .rnd (fieldX w) (fieldKk w)) ∧
  Encodes 0xF000 0xD000 (fun w => .drw (fieldX w) (fieldY w) (fieldN w)) ∧
  Encodes 0xF0FF 0xE09E (fun w => .skp (fieldX w)) ∧
  Encodes 0xF0FF 0xE0A1 (fun w => .sknp (fieldX w)) ∧
  Encodes 0xF0FF 0xF007 (fun w => .ldVxDt (fieldX w)) ∧
  Encodes 0xF0FF 0xF015 (fun w => .ldDtVx (fieldX w)) ∧
  Encodes 0xF0FF 0xF018 (fun w => .ldStVx (fieldX w)) ∧
  Encodes 0xF0FF 0xF01E (fun w => .addI (fieldX w)) ∧
  Encodes 0xF0FF 0xF00A (fun w => .ldVxK (fieldX w)) ∧
  Encodes 0xF0FF 0xF029 (fun w => .ldF (fieldX w)) ∧
  Encodes 0xF0FF 0xF033 (fun w => .ldB (fieldX w)) ∧
  Encodes 0xF0FF 0xF055 (fun w => .storeRegs (fieldX w)) ∧
  Encodes 0xF0FF 0xF065 (fun w => .loadRegs (fieldX w))

/-- The two-level decoder of R93 to R98 is the opcode map of R104: each row's words decode to the row's instruction, no
word belongs to two rows, every other word is unknown, and there are 34 rows. -/
def Obligations.DecoderIsTheOpcodeMap : Prop :=
  (∀ r ∈ opcodeMap, ∀ w, w &&& r.mask = r.pattern → decodeWord w = some (r.build w)) ∧
  (∀ w, (∀ r ∈ opcodeMap, w &&& r.mask ≠ r.pattern) → decodeWord w = none) ∧
  opcodeMap.Pairwise (fun r q => ∀ w, ¬(w &&& r.mask = r.pattern ∧ w &&& q.mask = q.pattern)) ∧
  opcodeMap.length = 34

/-- The unknown words are exactly those of R99. -/
def Obligations.UnknownWordsAreExactlyThese : Prop :=
  ∀ w : Word, decodeWord w = none ↔
    (w.toNat / 4096 = 0x0 ∧ w.toNat % 256 ∉ [0xE0, 0xEE]) ∨
    (w.toNat / 4096 = 0x8 ∧ w.toNat % 16 ∈ [0x8, 0x9, 0xA, 0xB, 0xC, 0xD, 0xF]) ∨
    (w.toNat / 4096 = 0xE ∧ w.toNat % 256 ∉ [0x9E, 0xA1]) ∨
    (w.toNat / 4096 = 0xF ∧ w.toNat % 256 ∉ [0x07, 0x0A, 0x15, 0x18, 0x1E, 0x29, 0x33, 0x55, 0x65])

/-- Words of the spec's decoder table (95_test_vectors.md T-dec), one per family, decode as it says. -/
def Obligations.SampleWordsDecode : Prop :=
  decodeWord 0x0FE0 = some .cls ∧ decodeWord 0x07EE = some .ret ∧ decodeWord 0x2ABC = some (.call 0xABC) ∧
  decodeWord 0x512F = some (.seReg 1 2) ∧ decodeWord 0x8127 = some (.subnReg 1 2) ∧ decodeWord 0x81AE = some (.shl 1) ∧
  decodeWord 0xAFFF = some (.ldI 0xFFF) ∧ decodeWord 0xD000 = some (.drw 0 0 0) ∧ decodeWord 0xEF9E = some (.skp 15) ∧
  decodeWord 0xF065 = some (.loadRegs 0) ∧ decodeWord 0x0000 = none ∧ decodeWord 0x812F = none

/-! ## The step -/

/-- R110: a halted core's step changes nothing but the outputs; a fetch at pc ≥ 0xFFF faults; an unknown word runs as an
unknown opcode; a decoded instruction runs, and then the tick follows, unless the instruction took a fault. -/
def Obligations.StepRunsDecodedInstruction : Prop :=
  ∀ s : State,
    (s.halt = true → step s = .next { s with out := { soundActive := false, report := none } }) ∧
    (s.halt = false → 0xFFF ≤ s.pc.toNat → TakesFault (step s) s 3) ∧
    (s.halt = false → s.pc.toNat ≤ 0xFFE → decodeWord (s.wordAt s.pc.toNat) = none →
      step s = .next ((s.setPc (s.pc + 2)).tick (some (s.wordAt s.pc.toNat)))) ∧
    (∀ i, s.halt = false → s.NextIs i →
      ∃ t, exec i s = .next t ∧ (t.halt = true → step s = .next t) ∧ (t.halt = false → step s = .next (t.tick none)))

/-- The fetch: two bytes, the one at the lower address high; AddressOutOfRange from pc = 0xFFF on; no alignment
condition (R63). -/
def Obligations.FetchIsBigEndian : Prop :=
  ∀ s : State,
    (s.pc.toNat + 1 ≤ 0xFFF → ∃ w, s.fetchWord = .ok w ∧
      w.toNat = (s.byteAt s.pc.toNat).toNat * 256 + (s.byteAt (s.pc.toNat + 1)).toNat) ∧
    (0xFFF < s.pc.toNat + 1 → s.fetchWord = .error .addressOutOfRange)

/-- R240 and R241: in a step that completes, the timers left by the instruction (or by the unknown opcode) count down by
1 and stay at 0, `sound_active` says whether ST was above 0, and the tick changes nothing else. -/
def Obligations.TickFollowsTheInstruction : Prop :=
  ∀ s u : State, s.halt = false → step s = .next u → u.halt = false →
    ∃ t : State,
      ((∃ i, s.NextIs i ∧ exec i s = .next t) ∨
        (s.pc.toNat ≤ 0xFFE ∧ decodeWord (s.wordAt s.pc.toNat) = none ∧ t = s.setPc (s.pc + 2))) ∧
      u.dt.toNat = t.dt.toNat - 1 ∧ u.st.toNat = t.st.toNat - 1 ∧
      (u.out.soundActive = true ↔ 0 < t.st.toNat) ∧
      u = { t with dt := u.dt, st := u.st, out := u.out }

/-- R226: an unknown opcode's step makes the report with the word, pc advances by 2, the tick is done, nothing else
changes; and no other step makes a report, so it is not remembered. -/
def Obligations.UnknownOpcodeIsReportedNotFatal : Prop :=
  (∀ s : State, s.halt = false → s.pc.toNat ≤ 0xFFE → decodeWord (s.wordAt s.pc.toNat) = none →
    ∃ t, step s = .next t ∧ t.ports.unk = true ∧ t.ports.unkWord = some (s.wordAt s.pc.toNat) ∧
      t.pc.toNat = s.pc.toNat + 2 ∧ t.dt.toNat = s.dt.toNat - 1 ∧ t.st.toNat = s.st.toNat - 1 ∧
      (t.ports.soundActive = true ↔ 0 < s.st.toNat) ∧
      Keeps { dt := true, st := true } s { t with out := s.out }) ∧
  (∀ s t : State, step s = .next t → t.ports.unk = true →
    s.halt = false ∧ s.pc.toNat ≤ 0xFFE ∧ decodeWord (s.wordAt s.pc.toNat) = none)

/-- Every step answers a next state: no word, no operand and no state stops the model. -/
def Obligations.StepAlwaysAnswersNext : Prop := ∀ s : State, ∃ t, step s = .next t

/-! ## Faults -/

/-- R224: a step that faults leaves exactly the state before it, with HALT and CAUSE written and the outputs quiet; pc
is the faulting instruction's address and the timers did not tick. -/
def Obligations.FaultsArePrecise : Prop :=
  ∀ s t : State, s.halt = false → step s = .next t → t.halt = true →
    TakesFault (step s) s t.cause ∧ t.pc = s.pc ∧ t.dt = s.dt ∧ t.st = s.st ∧ t.out.soundActive = false ∧
      t.out.report = none

/-- R221: which step raises which fault, exactly. -/
def Obligations.FaultsHaveExactlyTheirCauses : Prop :=
  ∀ s : State, s.halt = false →
    (TakesFault (step s) s 1 ↔ ∃ nnn, s.NextIs (.call nnn) ∧ s.sp.val = 16) ∧
    (TakesFault (step s) s 2 ↔ s.NextIs .ret ∧ s.sp.val = 0) ∧
    (TakesFault (step s) s 3 ↔
      0xFFF ≤ s.pc.toNat ∨
      (∃ x y n, s.NextIs (.drw x y n) ∧ 0 < n.val ∧ 0xFFF < s.i.toNat + n.val - 1) ∨
      (∃ x, s.NextIs (.ldB x) ∧ 0xFFF < s.i.toNat + 2) ∨
      (∃ x, (s.NextIs (.storeRegs x) ∨ s.NextIs (.loadRegs x)) ∧ 0xFFF < s.i.toNat + x.val)) ∧
    (TakesFault (step s) s 4 ↔ ∃ x, (s.NextIs (.skp x) ∨ s.NextIs (.sknp x)) ∧ 15 < (s.reg x).toNat) ∧
    (∀ t, step s = .next t → t.halt = true → t.cause = 1 ∨ t.cause = 2 ∨ t.cause = 3 ∨ t.cause = 4) ∧
    (∀ t, step s = .next t → t.halt = false → t.cause = s.cause)

/-- R231: a halted core's step changes nothing; the outside still reads pixels, takes the draw flag and sets keys; only
reset and load end the halt. -/
def Obligations.HaltedCoreIsFrozen : Prop :=
  ∀ s : State, s.halt = true →
    step s = .next { s with out := { soundActive := false, report := none } } ∧
    (∀ x y, s.external (.readPixel x y) = (s, .bit (s.fb.cell y x))) ∧
    (s.external .takeDrawFlag).2 = .bit s.draw ∧ (s.external .takeDrawFlag).1.draw = false ∧
    (∀ k p, (s.external (.setKey k p)).1.keyDown k = p) ∧
    (∀ op, ((s.external op).1.halt = false ↔ op = .reset ∨ ∃ src, op = .load src) ∧
      (op ≠ .reset → (∀ src, op ≠ .load src) → (s.external op).1.cause = s.cause)) ∧
    (s.external .reset).1.cause = 0 ∧ (∀ src, (s.external (.load src)).1.cause = 0)

/-! ## Rules about the whole machine -/

/-- What an instruction writes: the frame of all 34 instructions at once (10_state.md R22 and the instructions' rules). -/
def Obligations.EveryInstructionKeepsItsFrame : Prop :=
  ∀ (i : Instr) (s t : State), s.halt = false → exec i s = .next t → t.halt = false → Keeps (effects s i) s t

/-- R21: each of the seven flag-writing instructions leaves 0 or 1 in VF on every execution that does not fault; every
other instruction leaves VF alone unless its own destination names register F. -/
def Obligations.FlagIsWrittenBySevenInstructions : Prop :=
  ∀ (i : Instr) (s t : State), s.halt = false → exec i s = .next t → t.halt = false →
    (writesFlag i = true → t.reg 15 = 0 ∨ t.reg 15 = 1) ∧
    (writesFlag i = false → 15 ∉ (effects s i).regs → t.reg 15 = s.reg 15)

/-- No instruction reads the sound timer, the draw flag, the fault latch, its cause or the outputs (R31, R35, R36):
changing them before an instruction changes nothing else after it. -/
def Obligations.UnreadStateDoesNotInfluence : Prop :=
  ∀ (i : Instr) (s t : State) (b : Byte) (d h : Bool) (c : BitVec 3) (o : Outputs), exec i s = .next t →
    ∃ u, exec i { s with st := b, draw := d, halt := h, cause := c, out := o } = .next u ∧
      { u with st := t.st, draw := t.draw, halt := t.halt, cause := t.cause, out := t.out } = t

/-- Only SKP, SKNP and LD Vx,K read the key state (R34, 44_keypad.md): any other instruction does the same whatever the
keys, and no instruction writes them. -/
def Obligations.KeysInfluenceOnlyKeyInstructions : Prop :=
  ∀ (i : Instr) (s t : State) (ks : Vector Bool 16), exec i s = .next t →
    t.key = s.key ∧
    ((∀ x, i ≠ .skp x ∧ i ≠ .sknp x ∧ i ≠ .ldVxK x) → exec i { s with key := ks } = .next { t with key := ks })

/-- The frame buffer is read by DRW only (R32, R182): any other instruction does the same whatever the picture. -/
def Obligations.PictureInfluencesOnlyDrw : Prop :=
  ∀ (i : Instr) (s t : State) (fb : FrameBuffer), (∀ x y n, i ≠ .drw x y n) → exec i s = .next t →
    ∃ u, exec i { s with fb := fb } = .next u ∧ { u with fb := t.fb } = t

/-! ## Reset and the invariant -/

/-- R39: the value of every piece of state after reset, for every FONT; the machine's `State.reset` is such a reset. Which
bytes FONT has by default is the spec's general knowledge (log 4), and no clause says it. -/
def Obligations.ResetValues : Prop :=
  (∃ f, State.reset = State.resetWith f) ∧ ∀ f : Font,
    (∀ x, (State.resetWith f).reg x = 0) ∧ (State.resetWith f).i = 0 ∧ (State.resetWith f).pc = 0x200 ∧
    (State.resetWith f).sp = 0 ∧ (∀ k, (State.resetWith f).stack.get k = 0) ∧ (State.resetWith f).dt = 0 ∧
    (State.resetWith f).st = 0 ∧ (∀ k : Fin 80, (State.resetWith f).byteAt k.val = f.get k) ∧
    (∀ a, 0x50 ≤ a → a ≤ 0xFFF → (State.resetWith f).byteAt a = 0) ∧
    (∀ y x, (State.resetWith f).fb.cell y x = false) ∧ (∀ k, (State.resetWith f).keyDown k = false) ∧
    (State.resetWith f).draw = false ∧ (State.resetWith f).halt = false ∧ (State.resetWith f).cause = 0

/-- The invariant holds at reset, whatever FONT is. -/
def Obligations.ResetMeetsTheInvariant : Prop := State.reset.Inv ∧ ∀ f : Font, (State.resetWith f).Inv

/-- Every step keeps the invariant: memory stays canonical, CAUSE agrees with HALT, every active frame is the address of a
CALL that was fetched, and pc never exceeds 0x10FE (R25, R121, R221). And no step changes FONT, the machine's parameter,
which the model carries in State (log 20). -/
def Obligations.StepKeepsInvariant : Prop :=
  (∀ s t : State, s.Inv → step s = .next t → t.Inv) ∧ ∀ s t : State, step s = .next t → t.font = s.font

/-- Every operation of the outside keeps the invariant and FONT too, so the invariant holds in every state reached from a
reset with any FONT. -/
def Obligations.ReachableStatesMeetInvariant : Prop :=
  (∀ (s : State) (op : ExternalOp), (s.Inv → (s.external op).1.Inv) ∧ (s.external op).1.font = s.font) ∧
  ∀ s, Reachable s → s.Inv

/-- The memory's canonical form is canonical, under every FONT: two such memories that read alike are the same data
(log 15). -/
def Obligations.CanonicalMemoriesAreEqualData : Prop :=
  ∀ (f : Font) (m n : Memory), m.wf f = true → n.wf f = true → (∀ a, a ≤ 0xFFF → m.read f a = n.read f a) → m = n

/-! ## Memory -/

/-- `MemRead(addr, 1)` and `MemWrite(addr, 1, v)` (R62, R64): a read gives the byte and changes nothing; a write changes its
byte and no other; above 0xFFF both raise AddressOutOfRange. -/
def Obligations.ByteAccesses : Prop :=
  ∀ (s : State) (a : Nat),
    (a ≤ 0xFFF → s.memRead a = .ok (s.byteAt a)) ∧
    (0xFFF < a → s.memRead a = .error .addressOutOfRange) ∧
    (∀ b, a ≤ 0xFFF → s.mem.wf s.font = true → ∃ t, s.storeBytes a [b] = .ok t ∧ t.byteAt a = b ∧
      Keeps { bytes := some (a, 1) } s t ∧ t.pc = s.pc) ∧
    (∀ b, 0xFFF < a → s.storeBytes a [b] = .error .addressOutOfRange)

/-- A store is seen by the very next fetch (R76): LD [I],Vx with I at the following instruction rewrites it. -/
def Obligations.StoreIsSeenByNextFetch : Prop :=
  ∀ (s : State) (x : RegIdx), s.mem.wf s.font = true → 1 ≤ x.val → s.i = s.pc + 2 → s.i.toNat + x.val ≤ 0xFFF →
    ∃ t, exec (.storeRegs x) s = .next t ∧ t.fetchWord = .ok (wordOfBytes (s.reg 0) (s.reg 1))

/-! ## Control flow -/

/-- RET (R121). -/
def Obligations.RetPopsOrUnderflows : Prop :=
  (∀ (s : State) (k : Fin 16), s.sp.val = k.val + 1 → ∃ t, exec .ret s = .next t ∧
    t.pc.toNat = ((s.stack.get k).toNat + 2) % 65536 ∧ t.sp.val = k.val ∧ Keeps { sp := true } s t) ∧
  (∀ s : State, s.sp.val = 0 → TakesFault (exec .ret s) s 2)

/-- JP nnn (R122). -/
def Obligations.JpJumps : Prop :=
  ∀ (s : State) (nnn : Addr12), ∃ t, exec (.jp nnn) s = .next t ∧ t.pc.toNat = nnn.toNat ∧ Keeps {} s t

/-- CALL nnn (R123): the slot SP + 1, at index SP, takes the address of the CALL. -/
def Obligations.CallPushesOrOverflows : Prop :=
  (∀ (s : State) (nnn : Addr12) (k : Fin 16), s.sp.val = k.val → ∃ t, exec (.call nnn) s = .next t ∧
    t.stack.get k = s.pc ∧ t.sp.val = k.val + 1 ∧ t.pc.toNat = nnn.toNat ∧ Keeps { sp := true, slots := [k] } s t) ∧
  (∀ (s : State) (nnn : Addr12), s.sp.val = 16 → TakesFault (exec (.call nnn) s) s 1)

/-- SE Vx,kk and SNE Vx,kk (R124, R125). -/
def Obligations.SkipsOnImmediate : Prop :=
  ∀ (s : State) (x : RegIdx) (kk : Byte),
    (∃ t, exec (.seImm x kk) s = .next t ∧ Keeps {} s t ∧
      t.pc.toNat = (s.pc.toNat + if (s.reg x).toNat = kk.toNat then 4 else 2) % 65536) ∧
    (∃ t, exec (.sneImm x kk) s = .next t ∧ Keeps {} s t ∧
      t.pc.toNat = (s.pc.toNat + if (s.reg x).toNat ≠ kk.toNat then 4 else 2) % 65536)

/-- SE Vx,Vy and SNE Vx,Vy (R126, R127); with x = y the first always and the second never skips. -/
def Obligations.SkipsOnRegister : Prop :=
  ∀ (s : State) (x y : RegIdx),
    (∃ t, exec (.seReg x y) s = .next t ∧ Keeps {} s t ∧
      t.pc.toNat = (s.pc.toNat + if x = y ∨ (s.reg x).toNat = (s.reg y).toNat then 4 else 2) % 65536) ∧
    (∃ t, exec (.sneReg x y) s = .next t ∧ Keeps {} s t ∧
      t.pc.toNat = (s.pc.toNat + if x ≠ y ∧ (s.reg x).toNat ≠ (s.reg y).toNat then 4 else 2) % 65536)

/-- JP V0,nnn (R128): the sum is not reduced to 12 bits and never wraps at 16. -/
def Obligations.JpV0AddsV0 : Prop :=
  ∀ (s : State) (nnn : Addr12), ∃ t, exec (.jpV0 nnn) s = .next t ∧ t.pc.toNat = nnn.toNat + (s.reg 0).toNat ∧
    t.pc.toNat ≤ 0x10FE ∧ Keeps {} s t

/-- CALL followed by RET comes back to the instruction after the CALL with SP as before (95_test_vectors.md S5), over two
whole steps. -/
def Obligations.CallThenRetComesBack : Prop :=
  ∀ (s : State) (nnn : Addr12), s.halt = false → s.sp.val < 16 → s.NextIs (.call nnn) → nnn.toNat ≤ 0xFFE →
    decodeWord (s.wordAt nnn.toNat) = some .ret →
    ∃ t u, step s = .next t ∧ t.sp.val = s.sp.val + 1 ∧ t.pc.toNat = nnn.toNat ∧
      step t = .next u ∧ u.sp = s.sp ∧ u.pc.toNat = s.pc.toNat + 2

/-! ## Immediates and random -/

/-- LD Vx,kk (R141): no flag, also when x is F. -/
def Obligations.LdImmLoadsTheByte : Prop :=
  ∀ (s : State) (x : RegIdx) (kk : Byte), ∃ t, exec (.ldImm x kk) s = .next t ∧ t.reg x = kk ∧
    t.pc.toNat = (s.pc.toNat + 2) % 65536 ∧ Keeps { regs := [x] } s t

/-- ADD Vx,kk (R142): mod 256, VF not written as a flag. -/
def Obligations.AddImmWrapsWithoutFlag : Prop :=
  ∀ (s : State) (x : RegIdx) (kk : Byte), ∃ t, exec (.addImm x kk) s = .next t ∧
    (t.reg x).toNat = ((s.reg x).toNat + kk.toNat) % 256 ∧
    t.pc.toNat = (s.pc.toNat + 2) % 65536 ∧ Keeps { regs := [x] } s t

/-- LD I,nnn (R143, an instruction the spec supplies itself: decision D30, log 5). -/
def Obligations.LdILoadsTheAddress : Prop :=
  ∀ (s : State) (nnn : Addr12), ∃ t, exec (.ldI nnn) s = .next t ∧ t.i.toNat = nnn.toNat ∧
    t.pc.toNat = (s.pc.toNat + 2) % 65536 ∧ Keeps { i := true } s t

/-- RND Vx,kk (R144): the free byte of this draw, masked; the next draw is another one (the count is the model's own,
log 2); every bit where kk has 0 is 0; no other instruction draws. -/
def Obligations.RndMasksAFreeByte : Prop :=
  (∀ (s : State) (x : RegIdx) (kk : Byte), ∃ t, exec (.rnd x kk) s = .next t ∧
    t.reg x = Config.rndByte s.rndCount &&& kk ∧ t.rndCount = s.rndCount + 1 ∧
    (∀ b, kk.getLsbD b = false → (t.reg x).getLsbD b = false) ∧
    (kk = 0xFF → t.reg x = Config.rndByte s.rndCount) ∧
    t.pc.toNat = (s.pc.toNat + 2) % 65536 ∧ Keeps { regs := [x], rnd := true } s t) ∧
  (∀ (i : Instr) (s t : State), (∀ x kk, i ≠ .rnd x kk) → exec i s = .next t → t.rndCount = s.rndCount)

/-! ## Family 8 -/

/-- LD Vx,Vy (R151). -/
def Obligations.LdRegCopies : Prop :=
  ∀ (s : State) (x y : RegIdx), ∃ t, exec (.ldReg x y) s = .next t ∧ t.reg x = s.reg y ∧
    t.pc.toNat = (s.pc.toNat + 2) % 65536 ∧ Keeps { regs := [x] } s t

/-- OR, AND and XOR Vx,Vy, bit by bit, without a flag (R152, R153, R154). -/
def Obligations.LogicWorksBitByBit : Prop :=
  ∀ (s : State) (x y : RegIdx),
    (∃ t, exec (.orReg x y) s = .next t ∧
      (∀ b, (t.reg x).getLsbD b = ((s.reg x).getLsbD b || (s.reg y).getLsbD b)) ∧
      t.pc.toNat = (s.pc.toNat + 2) % 65536 ∧ Keeps { regs := [x] } s t) ∧
    (∃ t, exec (.andReg x y) s = .next t ∧
      (∀ b, (t.reg x).getLsbD b = ((s.reg x).getLsbD b && (s.reg y).getLsbD b)) ∧
      t.pc.toNat = (s.pc.toNat + 2) % 65536 ∧ Keeps { regs := [x] } s t) ∧
    (∃ t, exec (.xorReg x y) s = .next t ∧
      (∀ b, (t.reg x).getLsbD b = ((s.reg x).getLsbD b ^^ (s.reg y).getLsbD b)) ∧
      t.pc.toNat = (s.pc.toNat + 2) % 65536 ∧ Keeps { regs := [x] } s t)

/-- ADD Vx,Vy (R155): the sum mod 256, and VF the carry out, which stays when x is F (decision D5, log 8). -/
def Obligations.AddRegSetsCarry : Prop :=
  ∀ (s : State) (x y : RegIdx), ∃ t, exec (.addReg x y) s = .next t ∧
    (x ≠ 15 → (t.reg x).toNat = ((s.reg x).toNat + (s.reg y).toNat) % 256) ∧
    (t.reg 15).toNat = (if 255 < (s.reg x).toNat + (s.reg y).toNat then 1 else 0) ∧
    t.pc.toNat = (s.pc.toNat + 2) % 65536 ∧ Keeps { regs := [x, 15] } s t

/-- SUB and SUBN Vx,Vy (R156, R158): the difference mod 256, and VF = 1 exactly when the minuend is strictly greater; the
flag stays when x is F (decision D5, log 8). -/
def Obligations.SubtractionsSetStrictFlag : Prop :=
  ∀ (s : State) (x y : RegIdx),
    (∃ t, exec (.subReg x y) s = .next t ∧
      (x ≠ 15 → (t.reg x).toNat = ((s.reg x).toNat + 256 - (s.reg y).toNat) % 256) ∧
      (t.reg 15).toNat = (if (s.reg x).toNat > (s.reg y).toNat then 1 else 0) ∧
      t.pc.toNat = (s.pc.toNat + 2) % 65536 ∧ Keeps { regs := [x, 15] } s t) ∧
    (∃ t, exec (.subnReg x y) s = .next t ∧
      (x ≠ 15 → (t.reg x).toNat = ((s.reg y).toNat + 256 - (s.reg x).toNat) % 256) ∧
      (t.reg 15).toNat = (if (s.reg y).toNat > (s.reg x).toNat then 1 else 0) ∧
      t.pc.toNat = (s.pc.toNat + 2) % 65536 ∧ Keeps { regs := [x, 15] } s t)

/-- SHR and SHL Vx (R157, R159): VF is the bit shifted out, also when x is F (decision D5, log 8). -/
def Obligations.ShiftsMoveOneBitToFlag : Prop :=
  ∀ (s : State) (x : RegIdx),
    (∃ t, exec (.shr x) s = .next t ∧ (x ≠ 15 → (t.reg x).toNat = (s.reg x).toNat / 2) ∧
      (t.reg 15).toNat = (s.reg x).toNat % 2 ∧
      t.pc.toNat = (s.pc.toNat + 2) % 65536 ∧ Keeps { regs := [x, 15] } s t) ∧
    (∃ t, exec (.shl x) s = .next t ∧ (x ≠ 15 → (t.reg x).toNat = 2 * (s.reg x).toNat % 256) ∧
      (t.reg 15).toNat = (s.reg x).toNat / 128 ∧
      t.pc.toNat = (s.pc.toNat + 2) % 65536 ∧ Keeps { regs := [x, 15] } s t)

/-- Adding 1 over and over (95_test_vectors.md S1): with ADD Vx,Vy and V[y] = 1 the register counts mod 256 and VF is 1
exactly after the executions that bring it to 0; with ADD Vx,1 it counts alike and VF is never written. -/
def Obligations.CountingByOneWrapsAndCarriesOnce : Prop :=
  (∀ (s : State) (x y : RegIdx) (k : Nat), x ≠ y → x ≠ 15 → y ≠ 15 → (s.reg y).toNat = 1 →
    ∃ t, repeatExec (.addReg x y) k s = .next t ∧ (t.reg x).toNat = ((s.reg x).toNat + k) % 256 ∧ t.reg y = s.reg y ∧
      (0 < k → ((t.reg 15).toNat = 1 ∧ (t.reg x).toNat = 0 ∨ (t.reg 15).toNat = 0 ∧ (t.reg x).toNat ≠ 0))) ∧
  (∀ (s : State) (x : RegIdx) (k : Nat), ∃ t, repeatExec (.addImm x 1) k s = .next t ∧
    (t.reg x).toNat = ((s.reg x).toNat + k) % 256 ∧ (x ≠ 15 → t.reg 15 = s.reg 15))

/-! ## Display -/

/-- CLS (R171). -/
def Obligations.ClsTurnsEveryPixelOff : Prop :=
  ∀ s : State, ∃ t, exec .cls s = .next t ∧ (∀ y x, t.fb.cell y x = false) ∧ t.draw = true ∧
    t.pc.toNat = (s.pc.toNat + 2) % 65536 ∧ Keeps { display := true } s t

/-- DRW Vx,Vy,n (R172, R174, R175, R176, R177, R178, R181): a cell is toggled exactly when a 1 bit of the sprite lands on
it, with wrap-around on both axes; VF is 1 exactly when such a cell was on; DRAW is set; the coordinates are the old
registers, also VF; an address above 0xFFF faults before any change, and n = 0 draws nothing and cannot fault. -/
def Obligations.DrwXorsTheSpriteWithWrap : Prop :=
  (∀ (s : State) (x y : RegIdx) (n : Fin 16), (n.val = 0 ∨ s.i.toNat + n.val - 1 ≤ 0xFFF) →
    ∃ t, exec (.drw x y n) s = .next t ∧
      (∀ j i, s.SpriteOn (s.reg x) (s.reg y) n.val j i → t.fb.cell j i = !s.fb.cell j i) ∧
      (∀ j i, ¬s.SpriteOn (s.reg x) (s.reg y) n.val j i → t.fb.cell j i = s.fb.cell j i) ∧
      ((∃ j i, s.SpriteOn (s.reg x) (s.reg y) n.val j i ∧ s.fb.cell j i = true) → t.reg 15 = 1) ∧
      ((∀ j i, s.SpriteOn (s.reg x) (s.reg y) n.val j i → s.fb.cell j i = false) → t.reg 15 = 0) ∧
      t.draw = true ∧ t.pc.toNat = (s.pc.toNat + 2) % 65536 ∧ Keeps { regs := [15], display := true } s t) ∧
  (∀ (s : State) (x y : RegIdx) (n : Fin 16), 0 < n.val → 0xFFF < s.i.toNat + n.val - 1 →
    TakesFault (exec (.drw x y n) s) s 3)

/-- Drawing the same sprite twice at the same place gives the frame buffer back, and the second draw collides exactly when
a 1 bit lands on a cell that was off (95_test_vectors.md S3). -/
def Obligations.DrawingTwiceRestoresThePicture : Prop :=
  ∀ (s : State) (x y : RegIdx) (n : Fin 16), x ≠ 15 → y ≠ 15 → (n.val = 0 ∨ s.i.toNat + n.val - 1 ≤ 0xFFF) →
    ∃ t u, exec (.drw x y n) s = .next t ∧ exec (.drw x y n) t = .next u ∧
      (∀ j i, u.fb.cell j i = s.fb.cell j i) ∧
      (u.reg 15 = 1 ↔ ∃ j i, s.SpriteOn (s.reg x) (s.reg y) n.val j i ∧ s.fb.cell j i = false) ∧ u.draw = true

/-- The cell of pixel (x, y) is entry y × 64 + x of the buffer read as one array of 2048 cells (R33). -/
def Obligations.CellsAreRowMajor : Prop :=
  ∀ (fb : FrameBuffer) (y : Fin 32) (x : Fin 64),
    fb.rowMajor[y.val * 64 + x.val]? = some (fb.cell y x) ∧ fb.rowMajor.length = 2048

/-! ## Keypad -/

/-- SKP and SKNP Vx (R191, R192, R194): the key whose index is in V[x]; above 15 the fault KeyIndexOutOfRange. -/
def Obligations.KeySkipsTestOneKey : Prop :=
  (∀ (s : State) (x : RegIdx) (k : Fin 16), (s.reg x).toNat = k.val →
    (∃ t, exec (.skp x) s = .next t ∧ Keeps {} s t ∧
      t.pc.toNat = (s.pc.toNat + if s.keyDown k = true then 4 else 2) % 65536) ∧
    (∃ t, exec (.sknp x) s = .next t ∧ Keeps {} s t ∧
      t.pc.toNat = (s.pc.toNat + if s.keyDown k = false then 4 else 2) % 65536)) ∧
  (∀ (s : State) (x : RegIdx), 15 < (s.reg x).toNat →
    TakesFault (exec (.skp x) s) s 4 ∧ TakesFault (exec (.sknp x) s) s 4)

/-- LD Vx,K (R193): the least pressed key and pc + 2; with no key pressed nothing changes, pc neither. -/
def Obligations.KeyWaitTakesTheLeastKey : Prop :=
  (∀ (s : State) (x : RegIdx) (k : Fin 16), s.keyDown k = true → (∀ j, j < k → s.keyDown j = false) →
    ∃ t, exec (.ldVxK x) s = .next t ∧ (t.reg x).toNat = k.val ∧ t.pc.toNat = (s.pc.toNat + 2) % 65536 ∧
      Keeps { regs := [x] } s t) ∧
  (∀ (s : State) (x : RegIdx), (∀ k, s.keyDown k = false) → exec (.ldVxK x) s = .next s)

/-! ## Timers, index, memory -/

/-- LD Vx,DT (R201): DT before the tick; after the tick DT is one less. -/
def Obligations.LdVxDtReadsTheTimer : Prop :=
  ∀ (s : State) (x : RegIdx), ∃ t, exec (.ldVxDt x) s = .next t ∧ t.reg x = s.dt ∧
    t.pc.toNat = (s.pc.toNat + 2) % 65536 ∧ Keeps { regs := [x] } s t ∧
    (0 < s.dt.toNat → ((t.tick none).reg x).toNat = (t.tick none).dt.toNat + 1)

/-- LD DT,Vx and LD ST,Vx (R202, R203): the timer takes V[x], and the tick of the same step counts it down and sounds for
ST. -/
def Obligations.TimerLoadsCopyTheRegister : Prop :=
  ∀ (s : State) (x : RegIdx),
    (∃ t, exec (.ldDtVx x) s = .next t ∧ t.dt = s.reg x ∧ t.pc.toNat = (s.pc.toNat + 2) % 65536 ∧
      Keeps { dt := true } s t ∧ (t.tick none).dt.toNat = (s.reg x).toNat - 1) ∧
    (∃ t, exec (.ldStVx x) s = .next t ∧ t.st = s.reg x ∧ t.pc.toNat = (s.pc.toNat + 2) % 65536 ∧
      Keeps { st := true } s t ∧ (t.tick none).st.toNat = (s.reg x).toNat - 1 ∧
      ((t.tick none).out.soundActive = true ↔ 0 < (s.reg x).toNat))

/-- ADD I,Vx (R204): 16-bit wrap only; VF says whether the unreduced sum exceeds 0xFFF; the old VF is the addend when x is
F, and the flag stays (decision D5, log 8). -/
def Obligations.AddISetsAddressOverflow : Prop :=
  ∀ (s : State) (x : RegIdx), ∃ t, exec (.addI x) s = .next t ∧
    t.i.toNat = (s.i.toNat + (s.reg x).toNat) % 65536 ∧
    (t.reg 15).toNat = (if 0xFFF < s.i.toNat + (s.reg x).toNat then 1 else 0) ∧
    t.pc.toNat = (s.pc.toNat + 2) % 65536 ∧ Keeps { regs := [15], i := true } s t

/-- LD F,Vx (R205): 5 × V[x], not masked. -/
def Obligations.LdFPointsAtTheGlyph : Prop :=
  ∀ (s : State) (x : RegIdx), ∃ t, exec (.ldF x) s = .next t ∧ t.i.toNat = (s.reg x).toNat * 5 ∧
    t.pc.toNat = (s.pc.toNat + 2) % 65536 ∧ Keeps { i := true } s t

/-- LD B,Vx (R206): hundreds, tens and ones at I, I + 1, I + 2; nothing written when I + 2 > 0xFFF. -/
def Obligations.LdBStoresTheDigits : Prop :=
  (∀ (s : State) (x : RegIdx), s.mem.wf s.font = true → s.i.toNat + 2 ≤ 0xFFF → ∃ t, exec (.ldB x) s = .next t ∧
    (t.byteAt s.dataAddr).toNat = (s.reg x).toNat / 100 ∧
    (t.byteAt (s.dataAddr + 1)).toNat = (s.reg x).toNat / 10 % 10 ∧
    (t.byteAt (s.dataAddr + 2)).toNat = (s.reg x).toNat % 10 ∧
    t.pc.toNat = (s.pc.toNat + 2) % 65536 ∧ Keeps { bytes := some (s.dataAddr, 3) } s t) ∧
  (∀ (s : State) (x : RegIdx), 0xFFF < s.i.toNat + 2 → TakesFault (exec (.ldB x) s) s 3)

/-- LD [I],Vx (R207): V[0] to V[x] at I upward, I moves on by x + 1; nothing written when I + x > 0xFFF. -/
def Obligations.StoreRegsDumpsAndAdvancesI : Prop :=
  (∀ (s : State) (x : RegIdx), s.mem.wf s.font = true → s.i.toNat + x.val ≤ 0xFFF → ∃ t, exec (.storeRegs x) s = .next t ∧
    (∀ k : RegIdx, k ≤ x → t.byteAt (s.dataAddr + k.val) = s.reg k) ∧
    t.i.toNat = (s.i.toNat + x.val + 1) % 65536 ∧ t.pc.toNat = (s.pc.toNat + 2) % 65536 ∧
    Keeps { i := true, bytes := some (s.dataAddr, x.val + 1) } s t) ∧
  (∀ (s : State) (x : RegIdx), 0xFFF < s.i.toNat + x.val → TakesFault (exec (.storeRegs x) s) s 3)

/-- LD Vx,[I] (R208): V[0] to V[x] from I upward, I moves on by x + 1; nothing loaded when I + x > 0xFFF. -/
def Obligations.LoadRegsLoadsAndAdvancesI : Prop :=
  (∀ (s : State) (x : RegIdx), s.i.toNat + x.val ≤ 0xFFF → ∃ t, exec (.loadRegs x) s = .next t ∧
    (∀ k : RegIdx, k ≤ x → t.reg k = s.byteAt (s.dataAddr + k.val)) ∧ (∀ k : RegIdx, x < k → t.reg k = s.reg k) ∧
    t.i.toNat = (s.i.toNat + x.val + 1) % 65536 ∧ t.pc.toNat = (s.pc.toNat + 2) % 65536 ∧
    Keeps { regs := regsTo x, i := true } s t) ∧
  (∀ (s : State) (x : RegIdx), 0xFFF < s.i.toNat + x.val → TakesFault (exec (.loadRegs x) s) s 3)

/-- A dump and then a load from the same base bring V[0] to V[x] back, whatever the registers held in between
(95_test_vectors.md S7). -/
def Obligations.DumpThenLoadRoundTrips : Prop :=
  ∀ (s : State) (x : RegIdx) (v : Vector Byte 16), s.mem.wf s.font = true → s.i.toNat + x.val ≤ 0xFFF →
    ∃ t u, exec (.storeRegs x) s = .next t ∧ exec (.loadRegs x) { t with i := s.i, v := v } = .next u ∧
      (∀ k : RegIdx, k ≤ x → u.reg k = s.reg k) ∧ (∀ k : RegIdx, x < k → u.reg k = v.get k) ∧ u.i = t.i ∧
      ∀ a, u.byteAt a = t.byteAt a

/-! ## The outside -/

/-- Reset and load (R260, R262, R263, R264): reset gives the reset state with the machine's FONT; load is a reset and then
the image at 0x200; an image over 3584 bytes or an unreadable source leaves the reset state. Two parts of the equalities are
the model's choice, not the spec's: the count of drawn random bytes is kept (log 2), and the outputs held in State are
quiet after a reset or a load, before any step has run (log 11). -/
def Obligations.LoadPlacesTheImageOrResets : Prop :=
  ∀ (s : State) (bytes : List Byte),
    s.external .reset = ({ State.resetWith s.font with rndCount := s.rndCount }, .done) ∧
    (bytes.length ≤ 3584 →
      (s.external (.load (.image bytes))).2 = .done ∧
      (∀ k, (h : k < bytes.length) → (s.external (.load (.image bytes))).1.byteAt (0x200 + k) = bytes[k]) ∧
      (∀ a, a < 0x200 ∨ 0x200 + bytes.length ≤ a →
        (s.external (.load (.image bytes))).1.byteAt a = (State.resetWith s.font).byteAt a) ∧
      { (s.external (.load (.image bytes))).1 with mem := [] } =
        { State.resetWith s.font with rndCount := s.rndCount }) ∧
    (3584 < bytes.length →
      s.external (.load (.image bytes)) =
        ({ State.resetWith s.font with rndCount := s.rndCount }, .loadError .capacity)) ∧
    s.external (.load .unreadable) = ({ State.resetWith s.font with rndCount := s.rndCount }, .loadError .io)

/-- take_draw_flag, read_pixel and set_key (R268, R269, R270): the reply, the one change, nothing else. -/
def Obligations.HostReadsAndKeys : Prop :=
  ∀ s : State,
    (s.external .takeDrawFlag).2 = .bit s.draw ∧ (s.external .takeDrawFlag).1 = { s with draw := false } ∧
    (∀ x y, s.external (.readPixel x y) = (s, .bit (s.fb.cell y x))) ∧
    (∀ k p, (s.external (.setKey k p)).1.keyDown k = p ∧
      (∀ j, j ≠ k → (s.external (.setKey k p)).1.keyDown j = s.keyDown j) ∧
      { (s.external (.setKey k p)).1 with key := s.key } = s)

/-- The idle state (R272): every step leaves the whole state unchanged, with no sound and no report. -/
def Obligations.IdleStateStaysIdle : Prop :=
  ∀ s : State, s.Idle → ∃ t, step s = .next t ∧ t = { s with out := t.out } ∧ t.out.soundActive = false ∧
    t.out.report = none ∧ t.Idle
end

