-- ==== Sys2Proof/Laws/Decode.lean ====
section
/-! SUPPORT. The fields of a word as numbers, the fields of a packed word, the bytes of a word, and the fields a masked
comparison fixes. -/

namespace Sys2Proof

/-! ## The fields as numbers (R91) -/

theorem fieldOp_toNat (w : Word) : (fieldOp w).toNat = w.toNat / 4096 % 16 := by
  simp [fieldOp, BitVec.extractLsb'_toNat, Nat.shiftRight_eq_div_pow]

theorem fieldX_val (w : Word) : (fieldX w).val = w.toNat / 256 % 16 := by
  have : (w.extractLsb' 8 4).toNat = w.toNat / 256 % 16 := by
    simp [BitVec.extractLsb'_toNat, Nat.shiftRight_eq_div_pow]
  exact this

theorem fieldY_val (w : Word) : (fieldY w).val = w.toNat / 16 % 16 := by
  have : (w.extractLsb' 4 4).toNat = w.toNat / 16 % 16 := by
    simp [BitVec.extractLsb'_toNat, Nat.shiftRight_eq_div_pow]
  exact this

theorem fieldN_val (w : Word) : (fieldN w).val = w.toNat % 16 := by
  have : (w.extractLsb' 0 4).toNat = w.toNat % 16 := by simp [BitVec.extractLsb'_toNat]
  exact this

theorem fieldKk_toNat (w : Word) : (fieldKk w).toNat = w.toNat % 256 := by
  simp [fieldKk, BitVec.extractLsb'_toNat]

theorem fieldNnn_toNat (w : Word) : (fieldNnn w).toNat = w.toNat % 4096 := by
  simp [fieldNnn, BitVec.extractLsb'_toNat]

/-! ## Packed words -/

theorem append_toNat {m n : Nat} (a : BitVec m) (b : BitVec n) : (a ++ b).toNat = a.toNat * 2 ^ n + b.toNat := by
  rw [BitVec.toNat_append, ← Nat.shiftLeft_add_eq_or_of_lt b.isLt, Nat.shiftLeft_eq]

theorem packNnn_toNat (op : BitVec 4) (nnn : Addr12) : (packNnn op nnn).toNat = op.toNat * 4096 + nnn.toNat :=
  append_toNat op nnn

theorem packXkk_toNat (op : BitVec 4) (x : RegIdx) (kk : Byte) :
    (packXkk op x kk).toNat = op.toNat * 4096 + (x.val * 256 + kk.toNat) := by
  rw [packXkk, packNnn_toNat]
  exact congrArg _ (append_toNat (BitVec.ofFin (w := 4) x) kk)

theorem packXyn_toNat (op : BitVec 4) (x y : RegIdx) (n : Fin 16) :
    (packXyn op x y n).toNat = op.toNat * 4096 + (x.val * 256 + (y.val * 16 + n.val)) := by
  rw [packXyn, packXkk_toNat]
  exact congrArg (fun k => op.toNat * 4096 + (x.val * 256 + k))
    (append_toNat (BitVec.ofFin (w := 4) y) (BitVec.ofFin (w := 4) n))

@[simp] theorem fieldOp_packNnn (op : BitVec 4) (nnn : Addr12) : fieldOp (packNnn op nnn) = op := by
  apply BitVec.eq_of_toNat_eq; rw [fieldOp_toNat, packNnn_toNat]; omega

@[simp] theorem fieldNnn_packNnn (op : BitVec 4) (nnn : Addr12) : fieldNnn (packNnn op nnn) = nnn := by
  apply BitVec.eq_of_toNat_eq; rw [fieldNnn_toNat, packNnn_toNat]; omega

@[simp] theorem fieldOp_packXkk (op : BitVec 4) (x : RegIdx) (kk : Byte) : fieldOp (packXkk op x kk) = op := by
  simp [packXkk]

@[simp] theorem fieldX_packXkk (op : BitVec 4) (x : RegIdx) (kk : Byte) : fieldX (packXkk op x kk) = x := by
  apply Fin.ext; rw [fieldX_val, packXkk_toNat]; omega

@[simp] theorem fieldKk_packXkk (op : BitVec 4) (x : RegIdx) (kk : Byte) : fieldKk (packXkk op x kk) = kk := by
  apply BitVec.eq_of_toNat_eq; rw [fieldKk_toNat, packXkk_toNat]; omega

@[simp] theorem fieldOp_packXyn (op : BitVec 4) (x y : RegIdx) (n : Fin 16) : fieldOp (packXyn op x y n) = op := by
  simp [packXyn]

@[simp] theorem fieldX_packXyn (op : BitVec 4) (x y : RegIdx) (n : Fin 16) : fieldX (packXyn op x y n) = x := by
  simp [packXyn]

@[simp] theorem fieldY_packXyn (op : BitVec 4) (x y : RegIdx) (n : Fin 16) : fieldY (packXyn op x y n) = y := by
  apply Fin.ext; rw [fieldY_val, packXyn_toNat]; omega

@[simp] theorem fieldN_packXyn (op : BitVec 4) (x y : RegIdx) (n : Fin 16) : fieldN (packXyn op x y n) = n := by
  apply Fin.ext; rw [fieldN_val, packXyn_toNat]; omega

/-- Every word in its nibble view (R91). -/
theorem word_eq_packXyn (w : Word) : packXyn (fieldOp w) (fieldX w) (fieldY w) (fieldN w) = w := by
  have := w.isLt
  apply BitVec.eq_of_toNat_eq; rw [packXyn_toNat, fieldOp_toNat, fieldX_val, fieldY_val, fieldN_val]; omega

/-- Every word in its byte view (R91). -/
theorem word_eq_packXkk (w : Word) : packXkk (fieldOp w) (fieldX w) (fieldKk w) = w := by
  have := w.isLt
  apply BitVec.eq_of_toNat_eq; rw [packXkk_toNat, fieldOp_toNat, fieldX_val, fieldKk_toNat]; omega

/-- Every word in its address view (R91). -/
theorem word_eq_packNnn (w : Word) : packNnn (fieldOp w) (fieldNnn w) = w := by
  have := w.isLt
  apply BitVec.eq_of_toNat_eq; rw [packNnn_toNat, fieldOp_toNat, fieldNnn_toNat]; omega

/-! ## Masked words -/

theorem append_and_append {m n : Nat} (a c : BitVec m) (b d : BitVec n) :
    (a ++ b) &&& (c ++ d) = (a &&& c) ++ (b &&& d) := by
  ext i hi
  simp only [BitVec.getElem_and, BitVec.getElem_append]
  split <;> rfl

theorem packXkk_and_packXkk (op op' : BitVec 4) (x x' : RegIdx) (k k' : Byte) :
    packXkk op x k &&& packXkk op' x' k' =
      packXkk (op &&& op') (BitVec.ofFin (w := 4) x &&& BitVec.ofFin (w := 4) x').toFin (k &&& k') := by
  unfold packXkk packNnn
  rw [append_and_append, append_and_append]

theorem packXyn_and_packXyn (op op' : BitVec 4) (x x' y y' n n' : RegIdx) :
    packXyn op x y n &&& packXyn op' x' y' n' =
      packXyn (op &&& op') (BitVec.ofFin (w := 4) x &&& BitVec.ofFin (w := 4) x').toFin
        (BitVec.ofFin (w := 4) y &&& BitVec.ofFin (w := 4) y').toFin
        (BitVec.ofFin (w := 4) n &&& BitVec.ofFin (w := 4) n').toFin := by
  unfold packXyn packXkk packNnn
  rw [append_and_append, append_and_append, append_and_append]

theorem nibble_and_ones (y : RegIdx) : (BitVec.ofFin (w := 4) y &&& BitVec.ofFin (w := 4) 15).toFin = y := by
  rw [show BitVec.ofFin (w := 4) 15 = BitVec.allOnes 4 from rfl, BitVec.and_allOnes]

theorem nibble_and_zero (y : RegIdx) : (BitVec.ofFin (w := 4) y &&& BitVec.ofFin (w := 4) 0).toFin = 0 := by
  rw [show BitVec.ofFin (w := 4) 0 = 0#4 from rfl, BitVec.and_zero]; rfl

theorem op_and_ones (op : BitVec 4) : op &&& 15#4 = op := by
  rw [show 15#4 = BitVec.allOnes 4 from rfl, BitVec.and_allOnes]

theorem byte_and_ones (b : Byte) : b &&& 255#8 = b := BitVec.and_allOnes

/-- A word without its `x` nibble (R94). -/
theorem and_F0FF (w : Word) : w &&& 0xF0FF = packXkk (fieldOp w) 0 (fieldKk w) := by
  conv_lhs => rw [← word_eq_packXkk w, show (0xF0FF : Word) = packXkk 15#4 0 255#8 from rfl, packXkk_and_packXkk]
  rw [nibble_and_zero, op_and_ones, byte_and_ones]

/-- A word without its `n` nibble (R95). -/
theorem and_FFF0 (w : Word) : w &&& 0xFFF0 = packXyn (fieldOp w) (fieldX w) (fieldY w) 0 := by
  conv_lhs => rw [← word_eq_packXyn w, show (0xFFF0 : Word) = packXyn 15#4 15 15 0 from rfl, packXyn_and_packXyn]
  rw [nibble_and_ones, nibble_and_ones, nibble_and_zero, op_and_ones]

/-- A word without its `y` nibble (R96). -/
theorem and_FF0F (w : Word) : w &&& 0xFF0F = packXyn (fieldOp w) (fieldX w) 0 (fieldN w) := by
  conv_lhs => rw [← word_eq_packXyn w, show (0xFF0F : Word) = packXyn 15#4 15 0 15 from rfl, packXyn_and_packXyn]
  rw [nibble_and_ones, nibble_and_ones, nibble_and_zero, op_and_ones]

/-- A word with all its bits. -/
theorem and_FFFF (w : Word) : w &&& 0xFFFF = w := BitVec.and_allOnes

/-! ## Bytes of a word -/

/-- The word of two bytes as a number: the first byte counts 256 (R63). -/
theorem wordOfBytes_toNat (hi lo : Byte) : (wordOfBytes hi lo).toNat = hi.toNat * 256 + lo.toNat := append_toNat hi lo

theorem highByte_toNat (w : Word) : (highByte w).toNat = w.toNat / 256 := by
  have := w.isLt
  simp only [highByte, BitVec.extractLsb'_toNat, Nat.shiftRight_eq_div_pow]
  omega

theorem lowByte_toNat (w : Word) : (lowByte w).toNat = w.toNat % 256 := by
  simp [lowByte, BitVec.extractLsb'_toNat]

/-- The two bytes of a word make the word again. -/
@[simp] theorem wordOfBytes_high_low (w : Word) : wordOfBytes (highByte w) (lowByte w) = w := by
  apply BitVec.eq_of_toNat_eq; rw [wordOfBytes_toNat, highByte_toNat, lowByte_toNat]; omega

@[simp] theorem highByte_wordOfBytes (hi lo : Byte) : highByte (wordOfBytes hi lo) = hi := by
  apply BitVec.eq_of_toNat_eq; rw [highByte_toNat, wordOfBytes_toNat]; omega

@[simp] theorem lowByte_wordOfBytes (hi lo : Byte) : lowByte (wordOfBytes hi lo) = lo := by
  apply BitVec.eq_of_toNat_eq; rw [lowByte_toNat, wordOfBytes_toNat]; omega

/-! ## What a masked comparison fixes (R104) -/

/-- The family a masked comparison fixes. -/
theorem fieldOp_of_mask {w m p : Word} (h : w &&& m = p) (hm : m.extractLsb' 12 4 = 0xF#4) :
    fieldOp w = p.extractLsb' 12 4 := by
  subst h
  have : (w &&& m).extractLsb' 12 4 = w.extractLsb' 12 4 &&& m.extractLsb' 12 4 := by ext i hi; simp
  rw [this, hm, show (0xF#4 : BitVec 4) = BitVec.allOnes 4 from rfl, BitVec.and_allOnes]
  rfl

/-- The low byte a masked comparison fixes. -/
theorem fieldKk_of_mask {w m p : Word} (h : w &&& m = p) (hm : m.extractLsb' 0 8 = 0xFF#8) :
    fieldKk w = p.extractLsb' 0 8 := by
  subst h
  have : (w &&& m).extractLsb' 0 8 = w.extractLsb' 0 8 &&& m.extractLsb' 0 8 := by ext i hi; simp
  rw [fieldKk, this, hm, show (0xFF#8 : BitVec 8) = BitVec.allOnes 8 from rfl, BitVec.and_allOnes]

/-- The low nibble a masked comparison fixes. -/
theorem fieldN_of_mask {w m p : Word} (h : w &&& m = p) (hm : m.extractLsb' 0 4 = 0xF#4) :
    fieldN w = (p.extractLsb' 0 4).toFin := by
  subst h
  have : (w &&& m).extractLsb' 0 4 = w.extractLsb' 0 4 &&& m.extractLsb' 0 4 := by ext i hi; simp
  rw [fieldN, this, hm, show (0xF#4 : BitVec 4) = BitVec.allOnes 4 from rfl, BitVec.and_allOnes]

end Sys2Proof
end

