-- ==== Sys2Proof/Laws/State.lean ====
section
/-! SUPPORT. What each update of the state leaves in each field: one lemma per field per update, true by rfl, so that no
later proof unfolds a record update; then the registers and keys read back. -/

namespace Sys2Proof.Machine

variable (s : State)

/-! ## setReg -/

@[simp] theorem setReg_v (x : RegIdx) (b : Byte) : (s.setReg x b).v = s.v.set x.val b x.isLt := rfl
@[simp] theorem setReg_i (x : RegIdx) (b : Byte) : (s.setReg x b).i = s.i := rfl
@[simp] theorem setReg_pc (x : RegIdx) (b : Byte) : (s.setReg x b).pc = s.pc := rfl
@[simp] theorem setReg_sp (x : RegIdx) (b : Byte) : (s.setReg x b).sp = s.sp := rfl
@[simp] theorem setReg_stack (x : RegIdx) (b : Byte) : (s.setReg x b).stack = s.stack := rfl
@[simp] theorem setReg_dt (x : RegIdx) (b : Byte) : (s.setReg x b).dt = s.dt := rfl
@[simp] theorem setReg_st (x : RegIdx) (b : Byte) : (s.setReg x b).st = s.st := rfl
@[simp] theorem setReg_mem (x : RegIdx) (b : Byte) : (s.setReg x b).mem = s.mem := rfl
@[simp] theorem setReg_fb (x : RegIdx) (b : Byte) : (s.setReg x b).fb = s.fb := rfl
@[simp] theorem setReg_key (x : RegIdx) (b : Byte) : (s.setReg x b).key = s.key := rfl
@[simp] theorem setReg_draw (x : RegIdx) (b : Byte) : (s.setReg x b).draw = s.draw := rfl
@[simp] theorem setReg_halt (x : RegIdx) (b : Byte) : (s.setReg x b).halt = s.halt := rfl
@[simp] theorem setReg_cause (x : RegIdx) (b : Byte) : (s.setReg x b).cause = s.cause := rfl
@[simp] theorem setReg_font (x : RegIdx) (b : Byte) : (s.setReg x b).font = s.font := rfl
@[simp] theorem setReg_rndCount (x : RegIdx) (b : Byte) : (s.setReg x b).rndCount = s.rndCount := rfl
@[simp] theorem setReg_out (x : RegIdx) (b : Byte) : (s.setReg x b).out = s.out := rfl
@[simp] theorem setReg_byteAt (x : RegIdx) (b : Byte) (a : Nat) : (s.setReg x b).byteAt a = s.byteAt a := rfl
@[simp] theorem setReg_keyDown (x : RegIdx) (b : Byte) (k : Fin 16) : (s.setReg x b).keyDown k = s.keyDown k := rfl

/-! ## setI -/

@[simp] theorem setI_v (w : Word) : (s.setI w).v = s.v := rfl
@[simp] theorem setI_i (w : Word) : (s.setI w).i = w := rfl
@[simp] theorem setI_pc (w : Word) : (s.setI w).pc = s.pc := rfl
@[simp] theorem setI_sp (w : Word) : (s.setI w).sp = s.sp := rfl
@[simp] theorem setI_stack (w : Word) : (s.setI w).stack = s.stack := rfl
@[simp] theorem setI_dt (w : Word) : (s.setI w).dt = s.dt := rfl
@[simp] theorem setI_st (w : Word) : (s.setI w).st = s.st := rfl
@[simp] theorem setI_mem (w : Word) : (s.setI w).mem = s.mem := rfl
@[simp] theorem setI_fb (w : Word) : (s.setI w).fb = s.fb := rfl
@[simp] theorem setI_key (w : Word) : (s.setI w).key = s.key := rfl
@[simp] theorem setI_draw (w : Word) : (s.setI w).draw = s.draw := rfl
@[simp] theorem setI_halt (w : Word) : (s.setI w).halt = s.halt := rfl
@[simp] theorem setI_cause (w : Word) : (s.setI w).cause = s.cause := rfl
@[simp] theorem setI_font (w : Word) : (s.setI w).font = s.font := rfl
@[simp] theorem setI_rndCount (w : Word) : (s.setI w).rndCount = s.rndCount := rfl
@[simp] theorem setI_out (w : Word) : (s.setI w).out = s.out := rfl
@[simp] theorem setI_reg (w : Word) (j : RegIdx) : (s.setI w).reg j = s.reg j := rfl
@[simp] theorem setI_byteAt (w : Word) (a : Nat) : (s.setI w).byteAt a = s.byteAt a := rfl
@[simp] theorem setI_keyDown (w : Word) (k : Fin 16) : (s.setI w).keyDown k = s.keyDown k := rfl

/-! ## setPc -/

@[simp] theorem setPc_v (w : Word) : (s.setPc w).v = s.v := rfl
@[simp] theorem setPc_i (w : Word) : (s.setPc w).i = s.i := rfl
@[simp] theorem setPc_pc (w : Word) : (s.setPc w).pc = w := rfl
@[simp] theorem setPc_sp (w : Word) : (s.setPc w).sp = s.sp := rfl
@[simp] theorem setPc_stack (w : Word) : (s.setPc w).stack = s.stack := rfl
@[simp] theorem setPc_dt (w : Word) : (s.setPc w).dt = s.dt := rfl
@[simp] theorem setPc_st (w : Word) : (s.setPc w).st = s.st := rfl
@[simp] theorem setPc_mem (w : Word) : (s.setPc w).mem = s.mem := rfl
@[simp] theorem setPc_fb (w : Word) : (s.setPc w).fb = s.fb := rfl
@[simp] theorem setPc_key (w : Word) : (s.setPc w).key = s.key := rfl
@[simp] theorem setPc_draw (w : Word) : (s.setPc w).draw = s.draw := rfl
@[simp] theorem setPc_halt (w : Word) : (s.setPc w).halt = s.halt := rfl
@[simp] theorem setPc_cause (w : Word) : (s.setPc w).cause = s.cause := rfl
@[simp] theorem setPc_font (w : Word) : (s.setPc w).font = s.font := rfl
@[simp] theorem setPc_rndCount (w : Word) : (s.setPc w).rndCount = s.rndCount := rfl
@[simp] theorem setPc_out (w : Word) : (s.setPc w).out = s.out := rfl
@[simp] theorem setPc_reg (w : Word) (j : RegIdx) : (s.setPc w).reg j = s.reg j := rfl
@[simp] theorem setPc_byteAt (w : Word) (a : Nat) : (s.setPc w).byteAt a = s.byteAt a := rfl
@[simp] theorem setPc_keyDown (w : Word) (k : Fin 16) : (s.setPc w).keyDown k = s.keyDown k := rfl

/-! ## advance -/

@[simp] theorem advance_v : (s.advance).v = s.v := rfl
@[simp] theorem advance_i : (s.advance).i = s.i := rfl
@[simp] theorem advance_pc : (s.advance).pc = s.pc + 2 := rfl
@[simp] theorem advance_sp : (s.advance).sp = s.sp := rfl
@[simp] theorem advance_stack : (s.advance).stack = s.stack := rfl
@[simp] theorem advance_dt : (s.advance).dt = s.dt := rfl
@[simp] theorem advance_st : (s.advance).st = s.st := rfl
@[simp] theorem advance_mem : (s.advance).mem = s.mem := rfl
@[simp] theorem advance_fb : (s.advance).fb = s.fb := rfl
@[simp] theorem advance_key : (s.advance).key = s.key := rfl
@[simp] theorem advance_draw : (s.advance).draw = s.draw := rfl
@[simp] theorem advance_halt : (s.advance).halt = s.halt := rfl
@[simp] theorem advance_cause : (s.advance).cause = s.cause := rfl
@[simp] theorem advance_font : (s.advance).font = s.font := rfl
@[simp] theorem advance_rndCount : (s.advance).rndCount = s.rndCount := rfl
@[simp] theorem advance_out : (s.advance).out = s.out := rfl
@[simp] theorem advance_reg (j : RegIdx) : (s.advance).reg j = s.reg j := rfl
@[simp] theorem advance_byteAt (a : Nat) : (s.advance).byteAt a = s.byteAt a := rfl
@[simp] theorem advance_keyDown (k : Fin 16) : (s.advance).keyDown k = s.keyDown k := rfl

/-! ## skipIf -/

@[simp] theorem skipIf_v (c : Bool) : (s.skipIf c).v = s.v := rfl
@[simp] theorem skipIf_i (c : Bool) : (s.skipIf c).i = s.i := rfl
@[simp] theorem skipIf_pc (c : Bool) : (s.skipIf c).pc = s.pc + if c then 4 else 2 := rfl
@[simp] theorem skipIf_sp (c : Bool) : (s.skipIf c).sp = s.sp := rfl
@[simp] theorem skipIf_stack (c : Bool) : (s.skipIf c).stack = s.stack := rfl
@[simp] theorem skipIf_dt (c : Bool) : (s.skipIf c).dt = s.dt := rfl
@[simp] theorem skipIf_st (c : Bool) : (s.skipIf c).st = s.st := rfl
@[simp] theorem skipIf_mem (c : Bool) : (s.skipIf c).mem = s.mem := rfl
@[simp] theorem skipIf_fb (c : Bool) : (s.skipIf c).fb = s.fb := rfl
@[simp] theorem skipIf_key (c : Bool) : (s.skipIf c).key = s.key := rfl
@[simp] theorem skipIf_draw (c : Bool) : (s.skipIf c).draw = s.draw := rfl
@[simp] theorem skipIf_halt (c : Bool) : (s.skipIf c).halt = s.halt := rfl
@[simp] theorem skipIf_cause (c : Bool) : (s.skipIf c).cause = s.cause := rfl
@[simp] theorem skipIf_font (c : Bool) : (s.skipIf c).font = s.font := rfl
@[simp] theorem skipIf_rndCount (c : Bool) : (s.skipIf c).rndCount = s.rndCount := rfl
@[simp] theorem skipIf_out (c : Bool) : (s.skipIf c).out = s.out := rfl
@[simp] theorem skipIf_reg (c : Bool) (j : RegIdx) : (s.skipIf c).reg j = s.reg j := rfl
@[simp] theorem skipIf_byteAt (c : Bool) (a : Nat) : (s.skipIf c).byteAt a = s.byteAt a := rfl
@[simp] theorem skipIf_keyDown (c : Bool) (k : Fin 16) : (s.skipIf c).keyDown k = s.keyDown k := rfl

/-! ## setDt -/

@[simp] theorem setDt_v (b : Byte) : (s.setDt b).v = s.v := rfl
@[simp] theorem setDt_i (b : Byte) : (s.setDt b).i = s.i := rfl
@[simp] theorem setDt_pc (b : Byte) : (s.setDt b).pc = s.pc := rfl
@[simp] theorem setDt_sp (b : Byte) : (s.setDt b).sp = s.sp := rfl
@[simp] theorem setDt_stack (b : Byte) : (s.setDt b).stack = s.stack := rfl
@[simp] theorem setDt_dt (b : Byte) : (s.setDt b).dt = b := rfl
@[simp] theorem setDt_st (b : Byte) : (s.setDt b).st = s.st := rfl
@[simp] theorem setDt_mem (b : Byte) : (s.setDt b).mem = s.mem := rfl
@[simp] theorem setDt_fb (b : Byte) : (s.setDt b).fb = s.fb := rfl
@[simp] theorem setDt_key (b : Byte) : (s.setDt b).key = s.key := rfl
@[simp] theorem setDt_draw (b : Byte) : (s.setDt b).draw = s.draw := rfl
@[simp] theorem setDt_halt (b : Byte) : (s.setDt b).halt = s.halt := rfl
@[simp] theorem setDt_cause (b : Byte) : (s.setDt b).cause = s.cause := rfl
@[simp] theorem setDt_font (b : Byte) : (s.setDt b).font = s.font := rfl
@[simp] theorem setDt_rndCount (b : Byte) : (s.setDt b).rndCount = s.rndCount := rfl
@[simp] theorem setDt_out (b : Byte) : (s.setDt b).out = s.out := rfl
@[simp] theorem setDt_reg (b : Byte) (j : RegIdx) : (s.setDt b).reg j = s.reg j := rfl
@[simp] theorem setDt_byteAt (b : Byte) (a : Nat) : (s.setDt b).byteAt a = s.byteAt a := rfl
@[simp] theorem setDt_keyDown (b : Byte) (k : Fin 16) : (s.setDt b).keyDown k = s.keyDown k := rfl

/-! ## setSt -/

@[simp] theorem setSt_v (b : Byte) : (s.setSt b).v = s.v := rfl
@[simp] theorem setSt_i (b : Byte) : (s.setSt b).i = s.i := rfl
@[simp] theorem setSt_pc (b : Byte) : (s.setSt b).pc = s.pc := rfl
@[simp] theorem setSt_sp (b : Byte) : (s.setSt b).sp = s.sp := rfl
@[simp] theorem setSt_stack (b : Byte) : (s.setSt b).stack = s.stack := rfl
@[simp] theorem setSt_dt (b : Byte) : (s.setSt b).dt = s.dt := rfl
@[simp] theorem setSt_st (b : Byte) : (s.setSt b).st = b := rfl
@[simp] theorem setSt_mem (b : Byte) : (s.setSt b).mem = s.mem := rfl
@[simp] theorem setSt_fb (b : Byte) : (s.setSt b).fb = s.fb := rfl
@[simp] theorem setSt_key (b : Byte) : (s.setSt b).key = s.key := rfl
@[simp] theorem setSt_draw (b : Byte) : (s.setSt b).draw = s.draw := rfl
@[simp] theorem setSt_halt (b : Byte) : (s.setSt b).halt = s.halt := rfl
@[simp] theorem setSt_cause (b : Byte) : (s.setSt b).cause = s.cause := rfl
@[simp] theorem setSt_font (b : Byte) : (s.setSt b).font = s.font := rfl
@[simp] theorem setSt_rndCount (b : Byte) : (s.setSt b).rndCount = s.rndCount := rfl
@[simp] theorem setSt_out (b : Byte) : (s.setSt b).out = s.out := rfl
@[simp] theorem setSt_reg (b : Byte) (j : RegIdx) : (s.setSt b).reg j = s.reg j := rfl
@[simp] theorem setSt_byteAt (b : Byte) (a : Nat) : (s.setSt b).byteAt a = s.byteAt a := rfl
@[simp] theorem setSt_keyDown (b : Byte) (k : Fin 16) : (s.setSt b).keyDown k = s.keyDown k := rfl

/-! ## setKey -/

@[simp] theorem setKey_v (k : Fin 16) (p : Bool) : (s.setKey k p).v = s.v := rfl
@[simp] theorem setKey_i (k : Fin 16) (p : Bool) : (s.setKey k p).i = s.i := rfl
@[simp] theorem setKey_pc (k : Fin 16) (p : Bool) : (s.setKey k p).pc = s.pc := rfl
@[simp] theorem setKey_sp (k : Fin 16) (p : Bool) : (s.setKey k p).sp = s.sp := rfl
@[simp] theorem setKey_stack (k : Fin 16) (p : Bool) : (s.setKey k p).stack = s.stack := rfl
@[simp] theorem setKey_dt (k : Fin 16) (p : Bool) : (s.setKey k p).dt = s.dt := rfl
@[simp] theorem setKey_st (k : Fin 16) (p : Bool) : (s.setKey k p).st = s.st := rfl
@[simp] theorem setKey_mem (k : Fin 16) (p : Bool) : (s.setKey k p).mem = s.mem := rfl
@[simp] theorem setKey_fb (k : Fin 16) (p : Bool) : (s.setKey k p).fb = s.fb := rfl
@[simp] theorem setKey_key (k : Fin 16) (p : Bool) : (s.setKey k p).key = s.key.set k.val p k.isLt := rfl
@[simp] theorem setKey_draw (k : Fin 16) (p : Bool) : (s.setKey k p).draw = s.draw := rfl
@[simp] theorem setKey_halt (k : Fin 16) (p : Bool) : (s.setKey k p).halt = s.halt := rfl
@[simp] theorem setKey_cause (k : Fin 16) (p : Bool) : (s.setKey k p).cause = s.cause := rfl
@[simp] theorem setKey_font (k : Fin 16) (p : Bool) : (s.setKey k p).font = s.font := rfl
@[simp] theorem setKey_rndCount (k : Fin 16) (p : Bool) : (s.setKey k p).rndCount = s.rndCount := rfl
@[simp] theorem setKey_out (k : Fin 16) (p : Bool) : (s.setKey k p).out = s.out := rfl
@[simp] theorem setKey_reg (k : Fin 16) (p : Bool) (j : RegIdx) : (s.setKey k p).reg j = s.reg j := rfl
@[simp] theorem setKey_byteAt (k : Fin 16) (p : Bool) (a : Nat) : (s.setKey k p).byteAt a = s.byteAt a := rfl

/-! ## setMem -/

@[simp] theorem setMem_v (m : Memory) : (s.setMem m).v = s.v := rfl
@[simp] theorem setMem_i (m : Memory) : (s.setMem m).i = s.i := rfl
@[simp] theorem setMem_pc (m : Memory) : (s.setMem m).pc = s.pc := rfl
@[simp] theorem setMem_sp (m : Memory) : (s.setMem m).sp = s.sp := rfl
@[simp] theorem setMem_stack (m : Memory) : (s.setMem m).stack = s.stack := rfl
@[simp] theorem setMem_dt (m : Memory) : (s.setMem m).dt = s.dt := rfl
@[simp] theorem setMem_st (m : Memory) : (s.setMem m).st = s.st := rfl
@[simp] theorem setMem_mem (m : Memory) : (s.setMem m).mem = m := rfl
@[simp] theorem setMem_fb (m : Memory) : (s.setMem m).fb = s.fb := rfl
@[simp] theorem setMem_key (m : Memory) : (s.setMem m).key = s.key := rfl
@[simp] theorem setMem_draw (m : Memory) : (s.setMem m).draw = s.draw := rfl
@[simp] theorem setMem_halt (m : Memory) : (s.setMem m).halt = s.halt := rfl
@[simp] theorem setMem_cause (m : Memory) : (s.setMem m).cause = s.cause := rfl
@[simp] theorem setMem_font (m : Memory) : (s.setMem m).font = s.font := rfl
@[simp] theorem setMem_rndCount (m : Memory) : (s.setMem m).rndCount = s.rndCount := rfl
@[simp] theorem setMem_out (m : Memory) : (s.setMem m).out = s.out := rfl
@[simp] theorem setMem_reg (m : Memory) (j : RegIdx) : (s.setMem m).reg j = s.reg j := rfl
@[simp] theorem setMem_keyDown (m : Memory) (k : Fin 16) : (s.setMem m).keyDown k = s.keyDown k := rfl

/-! ## setFb -/

@[simp] theorem setFb_v (fb : FrameBuffer) : (s.setFb fb).v = s.v := rfl
@[simp] theorem setFb_i (fb : FrameBuffer) : (s.setFb fb).i = s.i := rfl
@[simp] theorem setFb_pc (fb : FrameBuffer) : (s.setFb fb).pc = s.pc := rfl
@[simp] theorem setFb_sp (fb : FrameBuffer) : (s.setFb fb).sp = s.sp := rfl
@[simp] theorem setFb_stack (fb : FrameBuffer) : (s.setFb fb).stack = s.stack := rfl
@[simp] theorem setFb_dt (fb : FrameBuffer) : (s.setFb fb).dt = s.dt := rfl
@[simp] theorem setFb_st (fb : FrameBuffer) : (s.setFb fb).st = s.st := rfl
@[simp] theorem setFb_mem (fb : FrameBuffer) : (s.setFb fb).mem = s.mem := rfl
@[simp] theorem setFb_fb (fb : FrameBuffer) : (s.setFb fb).fb = fb := rfl
@[simp] theorem setFb_key (fb : FrameBuffer) : (s.setFb fb).key = s.key := rfl
@[simp] theorem setFb_draw (fb : FrameBuffer) : (s.setFb fb).draw = s.draw := rfl
@[simp] theorem setFb_halt (fb : FrameBuffer) : (s.setFb fb).halt = s.halt := rfl
@[simp] theorem setFb_cause (fb : FrameBuffer) : (s.setFb fb).cause = s.cause := rfl
@[simp] theorem setFb_font (fb : FrameBuffer) : (s.setFb fb).font = s.font := rfl
@[simp] theorem setFb_rndCount (fb : FrameBuffer) : (s.setFb fb).rndCount = s.rndCount := rfl
@[simp] theorem setFb_out (fb : FrameBuffer) : (s.setFb fb).out = s.out := rfl
@[simp] theorem setFb_reg (fb : FrameBuffer) (j : RegIdx) : (s.setFb fb).reg j = s.reg j := rfl
@[simp] theorem setFb_byteAt (fb : FrameBuffer) (a : Nat) : (s.setFb fb).byteAt a = s.byteAt a := rfl
@[simp] theorem setFb_keyDown (fb : FrameBuffer) (k : Fin 16) : (s.setFb fb).keyDown k = s.keyDown k := rfl

/-! ## setDraw -/

@[simp] theorem setDraw_v (b : Bool) : (s.setDraw b).v = s.v := rfl
@[simp] theorem setDraw_i (b : Bool) : (s.setDraw b).i = s.i := rfl
@[simp] theorem setDraw_pc (b : Bool) : (s.setDraw b).pc = s.pc := rfl
@[simp] theorem setDraw_sp (b : Bool) : (s.setDraw b).sp = s.sp := rfl
@[simp] theorem setDraw_stack (b : Bool) : (s.setDraw b).stack = s.stack := rfl
@[simp] theorem setDraw_dt (b : Bool) : (s.setDraw b).dt = s.dt := rfl
@[simp] theorem setDraw_st (b : Bool) : (s.setDraw b).st = s.st := rfl
@[simp] theorem setDraw_mem (b : Bool) : (s.setDraw b).mem = s.mem := rfl
@[simp] theorem setDraw_fb (b : Bool) : (s.setDraw b).fb = s.fb := rfl
@[simp] theorem setDraw_key (b : Bool) : (s.setDraw b).key = s.key := rfl
@[simp] theorem setDraw_draw (b : Bool) : (s.setDraw b).draw = b := rfl
@[simp] theorem setDraw_halt (b : Bool) : (s.setDraw b).halt = s.halt := rfl
@[simp] theorem setDraw_cause (b : Bool) : (s.setDraw b).cause = s.cause := rfl
@[simp] theorem setDraw_font (b : Bool) : (s.setDraw b).font = s.font := rfl
@[simp] theorem setDraw_rndCount (b : Bool) : (s.setDraw b).rndCount = s.rndCount := rfl
@[simp] theorem setDraw_out (b : Bool) : (s.setDraw b).out = s.out := rfl
@[simp] theorem setDraw_reg (b : Bool) (j : RegIdx) : (s.setDraw b).reg j = s.reg j := rfl
@[simp] theorem setDraw_byteAt (b : Bool) (a : Nat) : (s.setDraw b).byteAt a = s.byteAt a := rfl
@[simp] theorem setDraw_keyDown (b : Bool) (k : Fin 16) : (s.setDraw b).keyDown k = s.keyDown k := rfl

/-! ## setOut -/

@[simp] theorem setOut_v (o : Outputs) : (s.setOut o).v = s.v := rfl
@[simp] theorem setOut_i (o : Outputs) : (s.setOut o).i = s.i := rfl
@[simp] theorem setOut_pc (o : Outputs) : (s.setOut o).pc = s.pc := rfl
@[simp] theorem setOut_sp (o : Outputs) : (s.setOut o).sp = s.sp := rfl
@[simp] theorem setOut_stack (o : Outputs) : (s.setOut o).stack = s.stack := rfl
@[simp] theorem setOut_dt (o : Outputs) : (s.setOut o).dt = s.dt := rfl
@[simp] theorem setOut_st (o : Outputs) : (s.setOut o).st = s.st := rfl
@[simp] theorem setOut_mem (o : Outputs) : (s.setOut o).mem = s.mem := rfl
@[simp] theorem setOut_fb (o : Outputs) : (s.setOut o).fb = s.fb := rfl
@[simp] theorem setOut_key (o : Outputs) : (s.setOut o).key = s.key := rfl
@[simp] theorem setOut_draw (o : Outputs) : (s.setOut o).draw = s.draw := rfl
@[simp] theorem setOut_halt (o : Outputs) : (s.setOut o).halt = s.halt := rfl
@[simp] theorem setOut_cause (o : Outputs) : (s.setOut o).cause = s.cause := rfl
@[simp] theorem setOut_font (o : Outputs) : (s.setOut o).font = s.font := rfl
@[simp] theorem setOut_rndCount (o : Outputs) : (s.setOut o).rndCount = s.rndCount := rfl
@[simp] theorem setOut_out (o : Outputs) : (s.setOut o).out = o := rfl
@[simp] theorem setOut_reg (o : Outputs) (j : RegIdx) : (s.setOut o).reg j = s.reg j := rfl
@[simp] theorem setOut_byteAt (o : Outputs) (a : Nat) : (s.setOut o).byteAt a = s.byteAt a := rfl
@[simp] theorem setOut_keyDown (o : Outputs) (k : Fin 16) : (s.setOut o).keyDown k = s.keyDown k := rfl

/-! ## countRnd -/

@[simp] theorem countRnd_v : (s.countRnd).v = s.v := rfl
@[simp] theorem countRnd_i : (s.countRnd).i = s.i := rfl
@[simp] theorem countRnd_pc : (s.countRnd).pc = s.pc := rfl
@[simp] theorem countRnd_sp : (s.countRnd).sp = s.sp := rfl
@[simp] theorem countRnd_stack : (s.countRnd).stack = s.stack := rfl
@[simp] theorem countRnd_dt : (s.countRnd).dt = s.dt := rfl
@[simp] theorem countRnd_st : (s.countRnd).st = s.st := rfl
@[simp] theorem countRnd_mem : (s.countRnd).mem = s.mem := rfl
@[simp] theorem countRnd_fb : (s.countRnd).fb = s.fb := rfl
@[simp] theorem countRnd_key : (s.countRnd).key = s.key := rfl
@[simp] theorem countRnd_draw : (s.countRnd).draw = s.draw := rfl
@[simp] theorem countRnd_halt : (s.countRnd).halt = s.halt := rfl
@[simp] theorem countRnd_cause : (s.countRnd).cause = s.cause := rfl
@[simp] theorem countRnd_font : (s.countRnd).font = s.font := rfl
@[simp] theorem countRnd_rndCount : (s.countRnd).rndCount = s.rndCount + 1 := rfl
@[simp] theorem countRnd_out : (s.countRnd).out = s.out := rfl
@[simp] theorem countRnd_reg (j : RegIdx) : (s.countRnd).reg j = s.reg j := rfl
@[simp] theorem countRnd_byteAt (a : Nat) : (s.countRnd).byteAt a = s.byteAt a := rfl
@[simp] theorem countRnd_keyDown (k : Fin 16) : (s.countRnd).keyDown k = s.keyDown k := rfl

/-! ## takeFault -/

@[simp] theorem takeFault_v (f : Fault) : (s.takeFault f).v = s.v := rfl
@[simp] theorem takeFault_i (f : Fault) : (s.takeFault f).i = s.i := rfl
@[simp] theorem takeFault_pc (f : Fault) : (s.takeFault f).pc = s.pc := rfl
@[simp] theorem takeFault_sp (f : Fault) : (s.takeFault f).sp = s.sp := rfl
@[simp] theorem takeFault_stack (f : Fault) : (s.takeFault f).stack = s.stack := rfl
@[simp] theorem takeFault_dt (f : Fault) : (s.takeFault f).dt = s.dt := rfl
@[simp] theorem takeFault_st (f : Fault) : (s.takeFault f).st = s.st := rfl
@[simp] theorem takeFault_mem (f : Fault) : (s.takeFault f).mem = s.mem := rfl
@[simp] theorem takeFault_fb (f : Fault) : (s.takeFault f).fb = s.fb := rfl
@[simp] theorem takeFault_key (f : Fault) : (s.takeFault f).key = s.key := rfl
@[simp] theorem takeFault_draw (f : Fault) : (s.takeFault f).draw = s.draw := rfl
@[simp] theorem takeFault_halt (f : Fault) : (s.takeFault f).halt = true := rfl
@[simp] theorem takeFault_cause (f : Fault) : (s.takeFault f).cause = f.code := rfl
@[simp] theorem takeFault_font (f : Fault) : (s.takeFault f).font = s.font := rfl
@[simp] theorem takeFault_rndCount (f : Fault) : (s.takeFault f).rndCount = s.rndCount := rfl
@[simp] theorem takeFault_out (f : Fault) : (s.takeFault f).out = Outputs.quiet := rfl
@[simp] theorem takeFault_reg (f : Fault) (j : RegIdx) : (s.takeFault f).reg j = s.reg j := rfl
@[simp] theorem takeFault_byteAt (f : Fault) (a : Nat) : (s.takeFault f).byteAt a = s.byteAt a := rfl
@[simp] theorem takeFault_keyDown (f : Fault) (k : Fin 16) : (s.takeFault f).keyDown k = s.keyDown k := rfl

/-! ## tick -/

@[simp] theorem tick_v (r : Option Word) : (s.tick r).v = s.v := rfl
@[simp] theorem tick_i (r : Option Word) : (s.tick r).i = s.i := rfl
@[simp] theorem tick_pc (r : Option Word) : (s.tick r).pc = s.pc := rfl
@[simp] theorem tick_sp (r : Option Word) : (s.tick r).sp = s.sp := rfl
@[simp] theorem tick_stack (r : Option Word) : (s.tick r).stack = s.stack := rfl
@[simp] theorem tick_dt (r : Option Word) : (s.tick r).dt = countDown s.dt := rfl
@[simp] theorem tick_st (r : Option Word) : (s.tick r).st = countDown s.st := rfl
@[simp] theorem tick_mem (r : Option Word) : (s.tick r).mem = s.mem := rfl
@[simp] theorem tick_fb (r : Option Word) : (s.tick r).fb = s.fb := rfl
@[simp] theorem tick_key (r : Option Word) : (s.tick r).key = s.key := rfl
@[simp] theorem tick_draw (r : Option Word) : (s.tick r).draw = s.draw := rfl
@[simp] theorem tick_halt (r : Option Word) : (s.tick r).halt = s.halt := rfl
@[simp] theorem tick_cause (r : Option Word) : (s.tick r).cause = s.cause := rfl
@[simp] theorem tick_font (r : Option Word) : (s.tick r).font = s.font := rfl
@[simp] theorem tick_rndCount (r : Option Word) : (s.tick r).rndCount = s.rndCount := rfl
@[simp] theorem tick_out (r : Option Word) : (s.tick r).out = { soundActive := decide (0 < s.st.toNat), report := r } := rfl
@[simp] theorem tick_reg (r : Option Word) (j : RegIdx) : (s.tick r).reg j = s.reg j := rfl
@[simp] theorem tick_byteAt (r : Option Word) (a : Nat) : (s.tick r).byteAt a = s.byteAt a := rfl
@[simp] theorem tick_keyDown (r : Option Word) (k : Fin 16) : (s.tick r).keyDown k = s.keyDown k := rfl

/-! ## haltedStep -/

@[simp] theorem haltedStep_v : (s.haltedStep).v = s.v := rfl
@[simp] theorem haltedStep_i : (s.haltedStep).i = s.i := rfl
@[simp] theorem haltedStep_pc : (s.haltedStep).pc = s.pc := rfl
@[simp] theorem haltedStep_sp : (s.haltedStep).sp = s.sp := rfl
@[simp] theorem haltedStep_stack : (s.haltedStep).stack = s.stack := rfl
@[simp] theorem haltedStep_dt : (s.haltedStep).dt = s.dt := rfl
@[simp] theorem haltedStep_st : (s.haltedStep).st = s.st := rfl
@[simp] theorem haltedStep_mem : (s.haltedStep).mem = s.mem := rfl
@[simp] theorem haltedStep_fb : (s.haltedStep).fb = s.fb := rfl
@[simp] theorem haltedStep_key : (s.haltedStep).key = s.key := rfl
@[simp] theorem haltedStep_draw : (s.haltedStep).draw = s.draw := rfl
@[simp] theorem haltedStep_halt : (s.haltedStep).halt = s.halt := rfl
@[simp] theorem haltedStep_cause : (s.haltedStep).cause = s.cause := rfl
@[simp] theorem haltedStep_font : (s.haltedStep).font = s.font := rfl
@[simp] theorem haltedStep_rndCount : (s.haltedStep).rndCount = s.rndCount := rfl
@[simp] theorem haltedStep_out : (s.haltedStep).out = Outputs.quiet := rfl
@[simp] theorem haltedStep_reg (j : RegIdx) : (s.haltedStep).reg j = s.reg j := rfl
@[simp] theorem haltedStep_byteAt (a : Nat) : (s.haltedStep).byteAt a = s.byteAt a := rfl
@[simp] theorem haltedStep_keyDown (k : Fin 16) : (s.haltedStep).keyDown k = s.keyDown k := rfl

/-! ## setRegsFrom -/

@[simp] theorem setRegsFrom_v (bs : List Byte) : (s.setRegsFrom bs).v = putRegs 0 bs s.v := rfl
@[simp] theorem setRegsFrom_i (bs : List Byte) : (s.setRegsFrom bs).i = s.i := rfl
@[simp] theorem setRegsFrom_pc (bs : List Byte) : (s.setRegsFrom bs).pc = s.pc := rfl
@[simp] theorem setRegsFrom_sp (bs : List Byte) : (s.setRegsFrom bs).sp = s.sp := rfl
@[simp] theorem setRegsFrom_stack (bs : List Byte) : (s.setRegsFrom bs).stack = s.stack := rfl
@[simp] theorem setRegsFrom_dt (bs : List Byte) : (s.setRegsFrom bs).dt = s.dt := rfl
@[simp] theorem setRegsFrom_st (bs : List Byte) : (s.setRegsFrom bs).st = s.st := rfl
@[simp] theorem setRegsFrom_mem (bs : List Byte) : (s.setRegsFrom bs).mem = s.mem := rfl
@[simp] theorem setRegsFrom_fb (bs : List Byte) : (s.setRegsFrom bs).fb = s.fb := rfl
@[simp] theorem setRegsFrom_key (bs : List Byte) : (s.setRegsFrom bs).key = s.key := rfl
@[simp] theorem setRegsFrom_draw (bs : List Byte) : (s.setRegsFrom bs).draw = s.draw := rfl
@[simp] theorem setRegsFrom_halt (bs : List Byte) : (s.setRegsFrom bs).halt = s.halt := rfl
@[simp] theorem setRegsFrom_cause (bs : List Byte) : (s.setRegsFrom bs).cause = s.cause := rfl
@[simp] theorem setRegsFrom_font (bs : List Byte) : (s.setRegsFrom bs).font = s.font := rfl
@[simp] theorem setRegsFrom_rndCount (bs : List Byte) : (s.setRegsFrom bs).rndCount = s.rndCount := rfl
@[simp] theorem setRegsFrom_out (bs : List Byte) : (s.setRegsFrom bs).out = s.out := rfl
@[simp] theorem setRegsFrom_byteAt (bs : List Byte) (a : Nat) : (s.setRegsFrom bs).byteAt a = s.byteAt a := rfl
@[simp] theorem setRegsFrom_keyDown (bs : List Byte) (k : Fin 16) : (s.setRegsFrom bs).keyDown k = s.keyDown k := rfl

/-! ## bumpI -/

@[simp] theorem bumpI_v (x : RegIdx) : (s.bumpI x).v = s.v := rfl
@[simp] theorem bumpI_i (x : RegIdx) : (s.bumpI x).i = BitVec.ofNat 16 (s.i.toNat + x.val + 1) := rfl
@[simp] theorem bumpI_pc (x : RegIdx) : (s.bumpI x).pc = s.pc := rfl
@[simp] theorem bumpI_sp (x : RegIdx) : (s.bumpI x).sp = s.sp := rfl
@[simp] theorem bumpI_stack (x : RegIdx) : (s.bumpI x).stack = s.stack := rfl
@[simp] theorem bumpI_dt (x : RegIdx) : (s.bumpI x).dt = s.dt := rfl
@[simp] theorem bumpI_st (x : RegIdx) : (s.bumpI x).st = s.st := rfl
@[simp] theorem bumpI_mem (x : RegIdx) : (s.bumpI x).mem = s.mem := rfl
@[simp] theorem bumpI_fb (x : RegIdx) : (s.bumpI x).fb = s.fb := rfl
@[simp] theorem bumpI_key (x : RegIdx) : (s.bumpI x).key = s.key := rfl
@[simp] theorem bumpI_draw (x : RegIdx) : (s.bumpI x).draw = s.draw := rfl
@[simp] theorem bumpI_halt (x : RegIdx) : (s.bumpI x).halt = s.halt := rfl
@[simp] theorem bumpI_cause (x : RegIdx) : (s.bumpI x).cause = s.cause := rfl
@[simp] theorem bumpI_font (x : RegIdx) : (s.bumpI x).font = s.font := rfl
@[simp] theorem bumpI_rndCount (x : RegIdx) : (s.bumpI x).rndCount = s.rndCount := rfl
@[simp] theorem bumpI_out (x : RegIdx) : (s.bumpI x).out = s.out := rfl
@[simp] theorem bumpI_reg (x : RegIdx) (j : RegIdx) : (s.bumpI x).reg j = s.reg j := rfl
@[simp] theorem bumpI_byteAt (x : RegIdx) (a : Nat) : (s.bumpI x).byteAt a = s.byteAt a := rfl
@[simp] theorem bumpI_keyDown (x : RegIdx) (k : Fin 16) : (s.bumpI x).keyDown k = s.keyDown k := rfl

/-! ## setResultFlag -/

@[simp] theorem setResultFlag_i (x : RegIdx) (r : Byte × Bool) : (s.setResultFlag x r).i = s.i := rfl
@[simp] theorem setResultFlag_pc (x : RegIdx) (r : Byte × Bool) : (s.setResultFlag x r).pc = s.pc := rfl
@[simp] theorem setResultFlag_sp (x : RegIdx) (r : Byte × Bool) : (s.setResultFlag x r).sp = s.sp := rfl
@[simp] theorem setResultFlag_stack (x : RegIdx) (r : Byte × Bool) : (s.setResultFlag x r).stack = s.stack := rfl
@[simp] theorem setResultFlag_dt (x : RegIdx) (r : Byte × Bool) : (s.setResultFlag x r).dt = s.dt := rfl
@[simp] theorem setResultFlag_st (x : RegIdx) (r : Byte × Bool) : (s.setResultFlag x r).st = s.st := rfl
@[simp] theorem setResultFlag_mem (x : RegIdx) (r : Byte × Bool) : (s.setResultFlag x r).mem = s.mem := rfl
@[simp] theorem setResultFlag_fb (x : RegIdx) (r : Byte × Bool) : (s.setResultFlag x r).fb = s.fb := rfl
@[simp] theorem setResultFlag_key (x : RegIdx) (r : Byte × Bool) : (s.setResultFlag x r).key = s.key := rfl
@[simp] theorem setResultFlag_draw (x : RegIdx) (r : Byte × Bool) : (s.setResultFlag x r).draw = s.draw := rfl
@[simp] theorem setResultFlag_halt (x : RegIdx) (r : Byte × Bool) : (s.setResultFlag x r).halt = s.halt := rfl
@[simp] theorem setResultFlag_cause (x : RegIdx) (r : Byte × Bool) : (s.setResultFlag x r).cause = s.cause := rfl
@[simp] theorem setResultFlag_font (x : RegIdx) (r : Byte × Bool) : (s.setResultFlag x r).font = s.font := rfl
@[simp] theorem setResultFlag_rndCount (x : RegIdx) (r : Byte × Bool) : (s.setResultFlag x r).rndCount = s.rndCount := rfl
@[simp] theorem setResultFlag_out (x : RegIdx) (r : Byte × Bool) : (s.setResultFlag x r).out = s.out := rfl
@[simp] theorem setResultFlag_byteAt (x : RegIdx) (r : Byte × Bool) (a : Nat) : (s.setResultFlag x r).byteAt a = s.byteAt a := rfl
@[simp] theorem setResultFlag_keyDown (x : RegIdx) (r : Byte × Bool) (k : Fin 16) : (s.setResultFlag x r).keyDown k = s.keyDown k := rfl

/-! ## reset -/

@[simp] theorem resetWith_v (f : Font) : (State.resetWith f).v = Vector.replicate 16 0 := rfl
@[simp] theorem resetWith_i (f : Font) : (State.resetWith f).i = 0 := rfl
@[simp] theorem resetWith_pc (f : Font) : (State.resetWith f).pc = 0x200 := rfl
@[simp] theorem resetWith_sp (f : Font) : (State.resetWith f).sp = 0 := rfl
@[simp] theorem resetWith_stack (f : Font) : (State.resetWith f).stack = Vector.replicate 16 0 := rfl
@[simp] theorem resetWith_dt (f : Font) : (State.resetWith f).dt = 0 := rfl
@[simp] theorem resetWith_st (f : Font) : (State.resetWith f).st = 0 := rfl
@[simp] theorem resetWith_mem (f : Font) : (State.resetWith f).mem = [] := rfl
@[simp] theorem resetWith_fb (f : Font) : (State.resetWith f).fb = FrameBuffer.blank := rfl
@[simp] theorem resetWith_key (f : Font) : (State.resetWith f).key = Vector.replicate 16 false := rfl
@[simp] theorem resetWith_draw (f : Font) : (State.resetWith f).draw = false := rfl
@[simp] theorem resetWith_halt (f : Font) : (State.resetWith f).halt = false := rfl
@[simp] theorem resetWith_cause (f : Font) : (State.resetWith f).cause = 0 := rfl
@[simp] theorem resetWith_font (f : Font) : (State.resetWith f).font = f := rfl
@[simp] theorem resetWith_byteAt (f : Font) (a : Nat) : (State.resetWith f).byteAt a = resetByte f a := rfl

/-! ## The outside's reset -/

@[simp] theorem doReset_eq : s.doReset = { State.resetWith s.font with rndCount := s.rndCount } := rfl

/-- The capacity check of load on natural numbers (R263). -/
theorem imageFits_iff (bytes : List Byte) : imageFits bytes = true ↔ bytes.length ≤ 3584 := by
  rw [imageFits, decide_eq_true_eq, Config.progMax]

/-! ## Reading back -/

/-- A register after a register write. -/
@[simp] theorem setReg_reg (x : RegIdx) (b : Byte) (j : RegIdx) :
    (s.setReg x b).reg j = if j = x then b else s.reg j := by
  simp only [State.reg, State.setReg, Vector.get_eq_getElem, Vector.getElem_set, Fin.ext_iff, eq_comm]

/-- A register after a result and its flag: VF holds the flag, also when VF is the result register (R29). -/
@[simp] theorem setResultFlag_reg (x : RegIdx) (r : Byte × Bool) (j : RegIdx) :
    (s.setResultFlag x r).reg j = if j = vf then flagByte r.2 else if j = x then r.1 else s.reg j := by
  simp [State.setResultFlag]

/-- A key slot after a key write. -/
@[simp] theorem setKey_keyDown (k : Fin 16) (p : Bool) (j : Fin 16) :
    (s.setKey k p).keyDown j = if j = k then p else s.keyDown j := by
  simp only [State.keyDown, State.setKey, Vector.get_eq_getElem, Vector.getElem_set, Fin.ext_iff, eq_comm]

/-- A byte after the memory is replaced. -/
@[simp] theorem setMem_byteAt (m : Memory) (a : Nat) : (s.setMem m).byteAt a = m.read s.font a := rfl

end Sys2Proof.Machine
end

