-- ==== Sys2Proof/Laws/Mem.lean ====
section
/-! SUPPORT. The laws of memory: a read after a write, a write leaves every other byte, and every memory operation keeps
the canonical form (log 15). -/

namespace Sys2Proof.Machine

variable {f : Font}

/-! ## One byte -/

/-- The reset contents of the font area (R262). -/
theorem resetByte_of_lt (f : Font) {a : Nat} (h : a < 80) : resetByte f a = f.get ⟨a, h⟩ := dif_pos h

/-- The reset contents of the rest of memory (R39). -/
theorem resetByte_of_ge (f : Font) {a : Nat} (h : 80 ≤ a) : resetByte f a = 0 := dif_neg (Nat.not_lt.2 h)

@[simp] theorem Memory.read_nil (a : Nat) : Memory.read f [] a = resetByte f a := rfl

theorem Memory.read_put_other (m : Memory) {a b : Nat} (c : Byte) (h : a ≠ b) :
    (Memory.put f a c m).read f b = m.read f b := by
  unfold Memory.put
  split
  · rfl
  · simp [Memory.read, h]

/-- A write leaves every other byte alone; no hypothesis on the memory. -/
theorem Memory.read_write_other (m : Memory) {a b : Nat} (c : Byte) (h : a ≠ b) :
    (m.write f a c).read f b = m.read f b := by
  induction m with
  | nil => exact Memory.read_put_other [] c h
  | cons cell m ih =>
    obtain ⟨k, d⟩ := cell
    simp only [Memory.write]
    split
    · exact Memory.read_put_other _ c h
    · split
      · next hk => subst hk; rw [Memory.read_put_other m c h]; simp [Memory.read, h]
      · simp [Memory.read, ih]

theorem Memory.wfFrom_mono {m : Memory} {lo lo' : Nat} (h : lo' ≤ lo) (hm : Memory.wfFrom f lo m = true) :
    Memory.wfFrom f lo' m = true := by
  cases m with
  | nil => rfl
  | cons cell m =>
    simp only [Memory.wfFrom, Bool.and_eq_true, decide_eq_true_eq] at hm ⊢
    exact ⟨⟨⟨Nat.le_trans h hm.1.1.1, hm.1.1.2⟩, hm.1.2⟩, hm.2⟩

/-- An address below a canonical list is not listed: it reads as its reset contents. -/
theorem Memory.read_of_lt_wfFrom {m : Memory} {lo a : Nat} (hm : Memory.wfFrom f lo m = true) (h : a < lo) :
    m.read f a = resetByte f a := by
  induction m generalizing lo with
  | nil => rfl
  | cons cell m ih =>
    obtain ⟨k, d⟩ := cell
    simp only [Memory.wfFrom, Bool.and_eq_true, decide_eq_true_eq] at hm
    obtain ⟨⟨⟨hlo, -⟩, -⟩, hm⟩ := hm
    have hk : k ≠ a := by omega
    simpa [Memory.read, hk] using ih hm (by omega)

theorem Memory.read_put_same {m : Memory} {a : Nat} (b : Byte) (hm : Memory.wfFrom f (a + 1) m = true) :
    (Memory.put f a b m).read f a = b := by
  unfold Memory.put
  split
  · next h => rw [h]; exact Memory.read_of_lt_wfFrom hm (Nat.lt_succ_self a)
  · simp [Memory.read]

theorem Memory.read_write_same_from {m : Memory} {lo : Nat} (hm : Memory.wfFrom f lo m = true) (a : Nat) (b : Byte) :
    (m.write f a b).read f a = b := by
  induction m generalizing lo with
  | nil => exact Memory.read_put_same (m := []) b rfl
  | cons cell m ih =>
    obtain ⟨k, d⟩ := cell
    have hm' := hm
    simp only [Memory.wfFrom, Bool.and_eq_true, decide_eq_true_eq] at hm'
    obtain ⟨⟨⟨-, hk⟩, hd⟩, htail⟩ := hm'
    simp only [Memory.write]
    split
    · next hlt =>
      refine Memory.read_put_same b ?_
      simp [Memory.wfFrom, htail, hk, hd, Nat.succ_le_of_lt hlt]
    · split
      · next heq => subst heq; exact Memory.read_put_same b htail
      · next hne => simp [Memory.read, Ne.symm hne, ih htail]

/-- A read after a write to the same byte gives the value written. -/
theorem Memory.read_write_same {m : Memory} (hm : m.wf f = true) (a : Nat) (b : Byte) : (m.write f a b).read f a = b :=
  Memory.read_write_same_from hm a b

/-! ## The canonical form -/

theorem Memory.wfFrom_put {m : Memory} {lo a : Nat} (b : Byte) (hlo : lo ≤ a) (ha : a < Config.memSize)
    (hm : Memory.wfFrom f (a + 1) m = true) : Memory.wfFrom f lo (Memory.put f a b m) = true := by
  unfold Memory.put
  split
  · exact Memory.wfFrom_mono (by omega) hm
  · next h => simp [Memory.wfFrom, hlo, ha, h, hm]

theorem Memory.wfFrom_write {m : Memory} {lo a : Nat} (b : Byte) (hlo : lo ≤ a) (ha : a < Config.memSize)
    (hm : Memory.wfFrom f lo m = true) : Memory.wfFrom f lo (m.write f a b) = true := by
  induction m generalizing lo with
  | nil => exact Memory.wfFrom_put b hlo ha rfl
  | cons cell m ih =>
    obtain ⟨k, d⟩ := cell
    simp only [Memory.wfFrom, Bool.and_eq_true, decide_eq_true_eq] at hm
    obtain ⟨⟨⟨hk, hks⟩, hd⟩, htail⟩ := hm
    simp only [Memory.write]
    split
    · next hlt =>
      refine Memory.wfFrom_put b hlo ha ?_
      simp [Memory.wfFrom, htail, hks, hd, Nat.succ_le_of_lt hlt]
    · split
      · next heq => subst heq; exact Memory.wfFrom_put b hlo ha htail
      · next hlt hne => simp [Memory.wfFrom, hk, hks, hd, ih (by omega) htail]

/-- A write inside the address space keeps the canonical form. -/
theorem Memory.wf_write {m : Memory} {a : Nat} (b : Byte) (ha : a < Config.memSize) (hm : m.wf f = true) :
    (m.write f a b).wf f = true := Memory.wfFrom_write b (Nat.zero_le a) ha hm

/-- The memory after reset is canonical. -/
theorem Memory.wf_nil : Memory.wf f [] = true := rfl

/-! ## Several bytes -/

/-- A write of several bytes leaves every byte outside them alone. -/
theorem Memory.read_writeBytes_outside (m : Memory) (bs : List Byte) {a b : Nat} (h : b < a ∨ a + bs.length ≤ b) :
    (m.writeBytes f a bs).read f b = m.read f b := by
  induction bs generalizing m a with
  | nil => rfl
  | cons c bs ih =>
    simp only [List.length_cons] at h
    rw [Memory.writeBytes, ih (m.write f a c) (by omega), Memory.read_write_other m c (by omega)]

/-- A write of several bytes inside the address space keeps the canonical form. -/
theorem Memory.wf_writeBytes {m : Memory} {a : Nat} (bs : List Byte) (ha : a + bs.length ≤ Config.memSize)
    (hm : m.wf f = true) : (m.writeBytes f a bs).wf f = true := by
  induction bs generalizing m a with
  | nil => exact hm
  | cons c bs ih =>
    simp only [List.length_cons] at ha
    exact ih (by omega) (Memory.wf_write c (by omega) hm)

/-- The k-th byte written reads back. -/
theorem Memory.read_writeBytes_inside {m : Memory} {a : Nat} (bs : List Byte) (ha : a + bs.length ≤ Config.memSize)
    (hm : m.wf f = true) {k : Nat} (hk : k < bs.length) : (m.writeBytes f a bs).read f (a + k) = bs[k] := by
  induction bs generalizing m a k with
  | nil => exact absurd hk (Nat.not_lt_zero k)
  | cons c bs ih =>
    simp only [List.length_cons] at ha hk
    have hw := Memory.wf_write (m := m) (a := a) c (by omega) hm
    cases k with
    | zero =>
      rw [Memory.writeBytes, Memory.read_writeBytes_outside _ bs (by omega)]
      simpa using Memory.read_write_same hm a c
    | succ k =>
      have := ih (m := m.write f a c) (a := a + 1) (by omega) hw (k := k) (by omega)
      rw [show a + (k + 1) = a + 1 + k by omega]
      simpa [Memory.writeBytes] using this

@[simp] theorem Memory.length_readBytes (m : Memory) (a n : Nat) : (m.readBytes f a n).length = n := by
  induction n generalizing a with
  | zero => rfl
  | succ n ih => simp [Memory.readBytes, ih]

/-- The k-th byte of a read of several bytes. -/
theorem Memory.getElem_readBytes (m : Memory) (a n : Nat) {k : Nat} (hk : k < (m.readBytes f a n).length) :
    (m.readBytes f a n)[k] = m.read f (a + k) := by
  induction n generalizing a k with
  | zero => exact absurd hk (by simp)
  | succ n ih =>
    cases k with
    | zero => rfl
    | succ k =>
      simp only [Memory.length_readBytes] at hk
      rw [show a + (k + 1) = a + 1 + k by omega, ← ih (a + 1) (by simpa using hk)]
      rfl

end Sys2Proof.Machine
end

