-- ==== Sys2Proof/Laws/Ops.lean ====
section
/-! SUPPORT. One lemma for each shared operation that says everything it can do; proofs about instructions cite these and
do not unfold the operations. -/

namespace Sys2Proof.Machine

/-! ## Taking a fault -/

@[simp] theorem orTakeFault_ok (s t : State) : s.orTakeFault (.ok t) = .next t := rfl

@[simp] theorem orTakeFault_error (s : State) (f : Fault) : s.orTakeFault (.error f) = .next (s.takeFault f) := rfl

/-- A meaning that may raise always answers a next state. -/
theorem orTakeFault_next (s : State) (r : Except Fault State) : ∃ t, s.orTakeFault r = .next t := by
  cases r with
  | ok t => exact ⟨t, rfl⟩
  | error f => exact ⟨_, rfl⟩

/-- What a meaning that may raise answers: its own state, or the fault taken. -/
theorem orTakeFault_cases {s t : State} {r : Except Fault State} (h : s.orTakeFault r = .next t) :
    r = .ok t ∨ ∃ f, r = .error f ∧ t = s.takeFault f := by
  cases r with
  | ok u => left; simpa using h
  | error f => right; exact ⟨f, rfl, by simpa using h.symm⟩

/-- Taking a fault is what `TakesFault` says, with the fault's code. -/
theorem takesFault_takeFault (s : State) (f : Fault) : TakesFault (.next (s.takeFault f)) s f.code := rfl

/-! ## Results and flags -/

theorem flagByte_toNat (c : Bool) : (flagByte c).toNat = if c = true then 1 else 0 := by cases c <;> rfl

/-- A sprite or register list lies in memory: none of its bytes does not exist (R78, R175). -/
theorem rangeOk_dataAddr (s : State) (n : Nat) : rangeOk s.dataAddr n = true ↔ n = 0 ∨ s.i.toNat + n - 1 ≤ 0xFFF := by
  unfold rangeOk Config.addrMax State.dataAddr
  rw [Bool.or_eq_true, decide_eq_true_eq, decide_eq_true_eq]

/-! ## The call stack -/

/-- A push below the limit (R123). -/
theorem pushFrame_of_lt {s : State} (h : s.sp.val < 16) :
    s.pushFrame = .ok { s with stack := s.stack.set s.sp.val s.pc h, sp := ⟨s.sp.val + 1, by omega⟩ } := by
  simp [State.pushFrame, h]

/-- A push of a seventeenth frame (R223). -/
theorem pushFrame_of_full {s : State} (h : s.sp.val = 16) : s.pushFrame = .error .stackOverflow := by
  simp [State.pushFrame, h]

/-- A pop of an active frame (R121). -/
theorem popFrame_of_pos {s : State} (h : 0 < s.sp.val) :
    s.popFrame = .ok (s.stack.get ⟨s.sp.val - 1, by omega⟩, { s with sp := ⟨s.sp.val - 1, by omega⟩ }) := by
  simp [State.popFrame, h]

/-- A pop of the empty stack (R223). -/
theorem popFrame_of_empty {s : State} (h : s.sp.val = 0) : s.popFrame = .error .stackUnderflow := by
  simp [State.popFrame, h]

/-! ## Memory with the range check -/

theorem rangeOk_iff (a n : Nat) : rangeOk a n = true ↔ n = 0 ∨ a + n ≤ Config.memSize := by
  unfold rangeOk Config.addrMax Config.memSize
  rw [Bool.or_eq_true, decide_eq_true_eq, decide_eq_true_eq]
  omega

theorem memRead_of_le {s : State} {a : Nat} (h : a ≤ Config.addrMax) : s.memRead a = .ok (s.byteAt a) := by
  simp [State.memRead, h]

theorem memRead_of_gt {s : State} {a : Nat} (h : Config.addrMax < a) : s.memRead a = .error .addressOutOfRange := by
  simp [State.memRead, Nat.not_le_of_gt h]

/-- The fetch of a pc whose two bytes exist (R63, R111). -/
theorem fetchWord_of_le {s : State} (h : s.pc.toNat ≤ 0xFFE) :
    s.fetchWord = .ok (wordOfBytes (s.byteAt s.pc.toNat) (s.byteAt (s.pc.toNat + 1))) := by
  simp only [State.fetchWord, memRead_of_le (s := s) (a := s.pc.toNat) (by simp only [Config.addrMax]; omega),
    memRead_of_le (s := s) (a := s.pc.toNat + 1) (by simp only [Config.addrMax]; omega)]

/-- The fetch of a pc whose second byte does not exist (R63, R111). -/
theorem fetchWord_of_gt {s : State} (h : 0xFFE < s.pc.toNat) : s.fetchWord = .error .addressOutOfRange := by
  have h1 : s.memRead (s.pc.toNat + 1) = .error .addressOutOfRange := memRead_of_gt (by simp only [Config.addrMax]; omega)
  unfold State.fetchWord
  rw [h1]
  split
  · next heq => exact absurd heq (by simp)
  · rfl

/-- When a fetch answers a word, both its bytes exist. -/
theorem fetchWord_ok {s : State} {w : Word} (h : s.fetchWord = .ok w) :
    s.pc.toNat ≤ 0xFFE ∧ w = wordOfBytes (s.byteAt s.pc.toNat) (s.byteAt (s.pc.toNat + 1)) := by
  rcases Nat.lt_or_ge 0xFFE s.pc.toNat with hgt | hle
  · rw [fetchWord_of_gt hgt] at h; cases h
  · rw [fetchWord_of_le hle] at h; exact ⟨hle, by cases h; rfl⟩

/-- The only fault of a fetch (R228). -/
theorem fetchWord_error {s : State} {f : Fault} (h : s.fetchWord = .error f) :
    0xFFE < s.pc.toNat ∧ f = .addressOutOfRange := by
  rcases Nat.lt_or_ge 0xFFE s.pc.toNat with hgt | hle
  · rw [fetchWord_of_gt hgt] at h; exact ⟨hgt, by cases h; rfl⟩
  · rw [fetchWord_of_le hle] at h; cases h

theorem loadBytes_of_ok {s : State} {a n : Nat} (h : rangeOk a n = true) :
    s.loadBytes a n = .ok (s.mem.readBytes s.font a n) := by simp [State.loadBytes, h]

theorem loadBytes_of_bad {s : State} {a n : Nat} (h : rangeOk a n = false) :
    s.loadBytes a n = .error .addressOutOfRange := by simp [State.loadBytes, h]

theorem storeBytes_of_ok {s : State} {a : Nat} {bs : List Byte} (h : rangeOk a bs.length = true) :
    s.storeBytes a bs = .ok (s.setMem (s.mem.writeBytes s.font a bs)) := by simp [State.storeBytes, h]

theorem storeBytes_of_bad {s : State} {a : Nat} {bs : List Byte} (h : rangeOk a bs.length = false) :
    s.storeBytes a bs = .error .addressOutOfRange := by simp [State.storeBytes, h]

/-- What a store can do: the bytes written, all in the address space, or the address fault and nothing written. -/
theorem storeBytes_cases (s : State) (a : Nat) (bs : List Byte) :
    (rangeOk a bs.length = true ∧ s.storeBytes a bs = .ok (s.setMem (s.mem.writeBytes s.font a bs))) ∨
    (rangeOk a bs.length = false ∧ s.storeBytes a bs = .error .addressOutOfRange) := by
  cases h : rangeOk a bs.length with
  | true => exact .inl ⟨rfl, storeBytes_of_ok h⟩
  | false => exact .inr ⟨rfl, storeBytes_of_bad h⟩

/-- What a load can do: the bytes read, or the address fault. -/
theorem loadBytes_cases (s : State) (a n : Nat) :
    (rangeOk a n = true ∧ s.loadBytes a n = .ok (s.mem.readBytes s.font a n)) ∨
    (rangeOk a n = false ∧ s.loadBytes a n = .error .addressOutOfRange) := by
  cases h : rangeOk a n with
  | true => exact .inl ⟨rfl, loadBytes_of_ok h⟩
  | false => exact .inr ⟨rfl, loadBytes_of_bad h⟩

/-- A store that succeeds keeps the canonical form of memory. -/
theorem storeBytes_wf {s t : State} {a : Nat} {bs : List Byte} (hs : s.mem.wf s.font = true)
    (h : s.storeBytes a bs = .ok t) :
    t.mem.wf t.font = true := by
  rcases storeBytes_cases s a bs with ⟨hr, heq⟩ | ⟨-, heq⟩
  · rw [heq] at h
    cases h
    rcases (rangeOk_iff a bs.length).1 hr with h0 | hle
    · obtain rfl := List.length_eq_zero_iff.1 h0
      simpa [Memory.writeBytes] using hs
    · exact Memory.wf_writeBytes bs hle hs
  · rw [heq] at h; cases h

/-! ## Operands -/

theorem keyIndex_of_lt {b : Byte} (h : b.toNat < 16) : keyIndex b = .ok ⟨b.toNat, h⟩ := by simp [keyIndex, h]

theorem keyIndex_of_ge {b : Byte} (h : 15 < b.toNat) : keyIndex b = .error .keyIndexOutOfRange := by
  simp [keyIndex, Nat.not_lt.2 h]

/-- The scan finds the least pressed key (R193). -/
theorem lowestKey_eq_some {s : State} {k : Fin 16} :
    s.lowestKey = some k ↔ s.keyDown k = true ∧ ∀ j, j < k → s.keyDown j = false := by
  simp only [State.lowestKey, List.find?_eq_some_iff_getElem, List.length_finRange, List.getElem_finRange]
  constructor
  · rintro ⟨hk, m, hm, rfl, hlt⟩
    refine ⟨hk, fun j hj => ?_⟩
    simpa using hlt j.val (by simpa [Fin.lt_def] using hj)
  · rintro ⟨hk, hlt⟩
    refine ⟨hk, k.val, k.isLt, by simp, fun m hm => ?_⟩
    simpa using hlt ⟨m, by omega⟩ (by simpa [Fin.lt_def] using hm)

/-- The scan finds nothing when no key is pressed (R193). -/
theorem lowestKey_eq_none {s : State} : s.lowestKey = none ↔ ∀ k, s.keyDown k = false := by
  simp [State.lowestKey, List.find?_eq_none]

@[simp] theorem length_bcdDigits (b : Byte) : (bcdDigits b).length = 3 := rfl

@[simp] theorem length_regsUpTo (s : State) (x : RegIdx) : (s.regsUpTo x).length = x.val + 1 := by
  simp only [State.regsUpTo, List.length_take, Vector.length_toList]
  omega

/-- The k-th byte of the register list is V[k] (R207). -/
theorem getElem_regsUpTo (s : State) (x : RegIdx) {k : Nat} (hk : k < (s.regsUpTo x).length) :
    (s.regsUpTo x)[k] = s.reg ⟨k, by simp only [length_regsUpTo] at hk; omega⟩ := by
  simp [State.regsUpTo, State.reg, Vector.get_eq_getElem]

/-- A register after bytes are put into registers from number `k` upward. -/
theorem get_putRegs (bs : List Byte) (k : Nat) (v : Vector Byte 16) (j : Fin 16) :
    (putRegs k bs v).get j = if h : k ≤ j.val ∧ j.val - k < bs.length then bs[j.val - k] else v.get j := by
  induction bs generalizing k v with
  | nil => simp [putRegs]
  | cons b bs ih =>
    rw [putRegs, ih]
    simp only [Vector.get_eq_getElem, List.length_cons, Vector.getElem_setIfInBounds]
    by_cases hk : k = j.val
    · subst hk
      simp
    · by_cases h1 : k + 1 ≤ j.val ∧ j.val - (k + 1) < bs.length
      · have h2 : k ≤ j.val ∧ j.val - k < bs.length + 1 := by omega
        have h3 : j.val - k = j.val - (k + 1) + 1 := by omega
        simp only [h1, h2, and_self, dite_true]
        simp only [h3, List.getElem_cons_succ]
      · have h2 : ¬(k ≤ j.val ∧ j.val - k < bs.length + 1) := by omega
        rw [dif_neg h1, dif_neg h2, if_neg hk]

/-- A register after a load of registers (R208). -/
theorem setRegsFrom_reg (s : State) (bs : List Byte) (j : RegIdx) :
    (s.setRegsFrom bs).reg j = if h : j.val < bs.length then bs[j.val] else s.reg j := by
  simp only [State.reg, setRegsFrom_v, get_putRegs, Nat.zero_le, true_and, Nat.sub_zero]

/-! ## The tick and the end of a step -/

/-- One count of a timer on natural numbers (R240). -/
theorem countDown_toNat (b : Byte) : (countDown b).toNat = b.toNat - 1 := by
  unfold countDown
  split
  · next h => simp [h]
  · next h =>
    have : b.toNat ≠ 0 := fun h0 => h (BitVec.eq_of_toNat_eq (by simpa using h0))
    have hle : (1 : Byte) ≤ b := by
      rw [BitVec.le_def]
      exact Nat.one_le_iff_ne_zero.2 this
    rw [BitVec.toNat_sub_of_le hle]
    rfl

@[simp] theorem endStep_next (t : State) : endStep (.next t) = .next (if t.halt then t else t.tick none) := rfl

/-! ## The step -/

theorem step_of_halt {s : State} (h : s.halt = true) : step s = .next s.haltedStep := by simp [step, h]

theorem step_of_fetch_fault {s : State} (h : s.halt = false) (hpc : 0xFFE < s.pc.toNat) :
    step s = .next (s.takeFault .addressOutOfRange) := by simp [step, h, fetchWord_of_gt hpc]

theorem step_of_unknown {s : State} {w : Word} (h : s.halt = false) (hw : s.fetchWord = .ok w)
    (hd : decodeWord w = none) : step s = .next (s.unknownStep w) := by simp [step, h, hw, hd]

theorem step_of_decoded {s : State} {w : Word} {i : Instr} (h : s.halt = false) (hw : s.fetchWord = .ok w)
    (hd : decodeWord w = some i) : step s = endStep (exec i s) := by simp [step, h, hw, hd]

/-- Everything a step can do. -/
theorem step_cases (s : State) :
    (s.halt = true ∧ step s = .next s.haltedStep) ∨
    (s.halt = false ∧ 0xFFE < s.pc.toNat ∧ step s = .next (s.takeFault .addressOutOfRange)) ∨
    (∃ w, s.halt = false ∧ s.pc.toNat ≤ 0xFFE ∧ s.fetchWord = .ok w ∧ decodeWord w = none ∧
      step s = .next (s.unknownStep w)) ∨
    (∃ w i, s.halt = false ∧ s.pc.toNat ≤ 0xFFE ∧ s.fetchWord = .ok w ∧ decodeWord w = some i ∧
      step s = endStep (exec i s)) := by
  cases hh : s.halt with
  | true => exact .inl ⟨rfl, step_of_halt hh⟩
  | false =>
    right
    rcases Nat.lt_or_ge 0xFFE s.pc.toNat with hgt | hle
    · exact .inl ⟨rfl, hgt, step_of_fetch_fault hh hgt⟩
    · right
      have hw := fetchWord_of_le hle
      cases hd : decodeWord (wordOfBytes (s.byteAt s.pc.toNat) (s.byteAt (s.pc.toNat + 1))) with
      | none => exact .inl ⟨_, rfl, hle, hw, hd, step_of_unknown hh hw hd⟩
      | some i => exact .inr ⟨_, i, rfl, hle, hw, hd, step_of_decoded hh hw hd⟩

end Sys2Proof.Machine
end

