-- ==== Sys2Proof/Laws/Display.lean ====
section
/-! SUPPORT. The frame buffer's write logic and the sprite engine: which cells a write, a sprite row and a sprite toggle,
and what the collision flag collects (spec 43_display.md R174, R176, R177, R179). -/

namespace Sys2Proof.Machine

/-! ## One cell -/

@[simp] theorem cell_blank (y : Fin 32) (x : Fin 64) : FrameBuffer.blank.cell y x = false := by
  simp [FrameBuffer.cell, FrameBuffer.blank, Vector.get_eq_getElem]

/-- An XOR write changes its own cell only (R177). -/
theorem cell_xorWrite (fb : FrameBuffer) (y : Fin 32) (x : Fin 64) (bit : Bool) (j : Fin 32) (i : Fin 64) :
    (fb.xorWrite y x bit).cell j i = (fb.cell j i ^^ (decide (j = y ∧ i = x) && bit)) := by
  by_cases hj : y = j
  · subst hj
    by_cases hi : x = i
    · subst hi; simp [FrameBuffer.cell, FrameBuffer.xorWrite, Vector.get_eq_getElem]
    · have hi' : x.val ≠ i.val := fun h => hi (Fin.ext h)
      simp [FrameBuffer.cell, FrameBuffer.xorWrite, Vector.get_eq_getElem, hi', Ne.symm hi]
  · have hj' : y.val ≠ j.val := fun h => hj (Fin.ext h)
    simp [FrameBuffer.cell, FrameBuffer.xorWrite, Vector.get_eq_getElem, hj', Ne.symm hj]

/-! ## One sprite row -/

/-- The sprite column that lands on screen column `i` when the origin column is `ox` (R174). -/
def spriteCol (ox : Nat) (i : Fin 64) : Nat := (i.val + 64 - ox) % 64

/-- The sprite row that lands on screen row `j` when the origin row is `oy` (R174). -/
def spriteRow (oy : Nat) (j : Fin 32) : Nat := (j.val + 32 - oy) % 32

theorem wrapCol_eq_iff {ox c : Nat} (hox : ox < 64) (hc : c < 64) (i : Fin 64) :
    i = wrapCol (ox + c) ↔ spriteCol ox i = c := by
  simp only [Fin.ext_iff, wrapCol, spriteCol]
  omega

theorem wrapRow_eq_iff {oy r : Nat} (hoy : oy < 32) (hr : r < 32) (j : Fin 32) :
    j = wrapRow (oy + r) ↔ spriteRow oy j = r := by
  simp only [Fin.ext_iff, wrapRow, spriteRow]
  omega

/-- The bit of the sprite row `b` on screen column `i`, among the columns from `8 - fuel` on. -/
def rowBit (ox : Nat) (b : Byte) (fuel : Nat) (i : Fin 64) : Bool :=
  decide (8 - fuel ≤ spriteCol ox i) && decide (spriteCol ox i < 8) && b.getLsbD (7 - spriteCol ox i)

theorem rowBit_succ {ox : Nat} (b : Byte) {fuel : Nat} (hox : ox < 64) (hf : fuel < 8) (i : Fin 64) :
    rowBit ox b (fuel + 1) i = (rowBit ox b fuel i ^^ (decide (i = wrapCol (ox + (7 - fuel))) && b.getLsbD fuel)) := by
  simp only [rowBit, decide_eq_decide.2 (wrapCol_eq_iff hox (show 7 - fuel < 64 by omega) i)]
  by_cases h : spriteCol ox i = 7 - fuel
  · have h1 : ¬8 - fuel ≤ 7 - fuel := by omega
    have h3 : 7 - fuel < 8 := by omega
    have h4 : 7 - (7 - fuel) = fuel := by omega
    simp [h, h1, h3, h4]
  · have h1 : (8 - (fuel + 1) ≤ spriteCol ox i) ↔ (8 - fuel ≤ spriteCol ox i) := by omega
    simp only [h, decide_false, Bool.false_and, Bool.xor_false, decide_eq_decide.2 h1]

/-- A sprite row toggles the cells of its screen row under its 1 bits, and no other (R177, R179). -/
theorem cell_columns {ox : Nat} (y : Fin 32) (b : Byte) {fuel : Nat} (t : Blit) (hox : ox < 64) (hf : fuel ≤ 8)
    (j : Fin 32) (i : Fin 64) :
    (Blit.columns ox y b fuel t).fb.cell j i = (t.fb.cell j i ^^ (decide (j = y) && rowBit ox b fuel i)) := by
  induction fuel generalizing t with
  | zero =>
    have : rowBit ox b 0 i = false := by simp [rowBit]
    simp [Blit.columns, this]
  | succ fuel ih =>
    rw [Blit.columns, ih _ (by omega), rowBit_succ b hox (by omega)]
    simp only [Blit.pixel, cell_xorWrite, Bool.decide_and, Bool.and_xor_distrib_left, Bool.and_assoc, Bool.xor_assoc]
    congr 1
    exact Bool.xor_comm _ _

/-- A sprite row collides when one of its 1 bits is over a cell that was on; the flag is never cleared (R176). -/
theorem coll_columns {ox : Nat} (y : Fin 32) (b : Byte) {fuel : Nat} (t : Blit) (hox : ox < 64) (hf : fuel ≤ 8) :
    (Blit.columns ox y b fuel t).coll = true ↔
      t.coll = true ∨ ∃ i, rowBit ox b fuel i = true ∧ t.fb.cell y i = true := by
  induction fuel generalizing t with
  | zero =>
    have : ∀ i, rowBit ox b 0 i = false := fun i => by simp [rowBit]
    simp [Blit.columns, this]
  | succ fuel ih =>
    rw [Blit.columns, ih _ (by omega)]
    have hx := wrapCol_eq_iff hox (show 7 - fuel < 64 by omega)
    have hoff : rowBit ox b fuel (wrapCol (ox + (7 - fuel))) = false := by
      have := (hx (wrapCol (ox + (7 - fuel)))).1 rfl
      simp only [rowBit, this]
      simp; omega
    simp only [Blit.pixel, cell_xorWrite, Bool.or_eq_true, Bool.and_eq_true, rowBit_succ b hox (show fuel < 8 by omega)]
    constructor
    · rintro ((h | ⟨hb, hc⟩) | ⟨i, hi, hc⟩)
      · exact .inl h
      · exact .inr ⟨_, by simp [hoff, hb], hc⟩
      · have hne : i ≠ wrapCol (ox + (7 - fuel)) := by rintro rfl; rw [hoff] at hi; cases hi
        exact .inr ⟨i, by simp [hi, hne], by simpa [hne] using hc⟩
    · rintro (h | ⟨i, hi, hc⟩)
      · exact .inl (.inl h)
      · by_cases hne : i = wrapCol (ox + (7 - fuel))
        · subst hne
          exact .inl (.inr ⟨by simpa [hoff] using hi, hc⟩)
        · exact .inr ⟨i, by simpa [hne] using hi, by simpa [hne] using hc⟩

/-! ## The whole sprite -/

/-- The sprite bit on the cell at row `j`, column `i`, of the rows `bs` that begin with sprite row `r`. -/
def spriteBit (ox oy r : Nat) (bs : List Byte) (j : Fin 32) (i : Fin 64) : Bool :=
  decide (r ≤ spriteRow oy j) && rowBit ox (bs.getD (spriteRow oy j - r) 0) 8 i

theorem rowBit_zero (ox fuel : Nat) (i : Fin 64) : rowBit ox 0#8 fuel i = false := by simp [rowBit]

theorem spriteBit_cons {ox oy r : Nat} (b : Byte) (bs : List Byte) (hoy : oy < 32) (hr : r < 32) (j : Fin 32)
    (i : Fin 64) :
    spriteBit ox oy r (b :: bs) j i =
      (spriteBit ox oy (r + 1) bs j i ^^ (decide (j = wrapRow (oy + r)) && rowBit ox b 8 i)) := by
  simp only [spriteBit, decide_eq_decide.2 (wrapRow_eq_iff hoy hr j)]
  by_cases h : spriteRow oy j = r
  · simp [h]
  · by_cases h1 : r + 1 ≤ spriteRow oy j
    · have h2 : r ≤ spriteRow oy j := by omega
      have h3 : spriteRow oy j - r = spriteRow oy j - (r + 1) + 1 := by omega
      simp [h, h1, h2, h3]
    · have h2 : ¬r ≤ spriteRow oy j := by omega
      simp [h, h1, h2]

theorem spriteBit_nil (ox oy r : Nat) (j : Fin 32) (i : Fin 64) : spriteBit ox oy r [] j i = false := by
  simp [spriteBit, rowBit_zero]

/-- Sprite rows toggle the cells under their 1 bits, and no other (R174, R177, R179). -/
theorem cell_rows {ox oy r : Nat} (bs : List Byte) (t : Blit) (hox : ox < 64) (hoy : oy < 32) (hr : r + bs.length ≤ 32)
    (j : Fin 32) (i : Fin 64) :
    (Blit.rows ox oy r bs t).fb.cell j i = (t.fb.cell j i ^^ spriteBit ox oy r bs j i) := by
  induction bs generalizing r t with
  | nil => simp [Blit.rows, spriteBit_nil]
  | cons b bs ih =>
    simp only [List.length_cons] at hr
    rw [Blit.rows, ih _ (by omega), cell_columns _ _ _ hox (Nat.le_refl 8), spriteBit_cons b bs hoy (by omega),
      Bool.xor_assoc, Bool.xor_comm (decide _ && _)]

/-- Sprite rows collide when a 1 bit is over a cell that was on before the draw (R176, R179). -/
theorem coll_rows {ox oy r : Nat} (bs : List Byte) (t : Blit) (hox : ox < 64) (hoy : oy < 32)
    (hr : r + bs.length ≤ 32) :
    (Blit.rows ox oy r bs t).coll = true ↔
      t.coll = true ∨ ∃ j i, spriteBit ox oy r bs j i = true ∧ t.fb.cell j i = true := by
  induction bs generalizing r t with
  | nil => simp [Blit.rows, spriteBit_nil]
  | cons b bs ih =>
    simp only [List.length_cons] at hr
    have hy := wrapRow_eq_iff hoy (show r < 32 by omega)
    have hoff : ∀ i, spriteBit ox oy (r + 1) bs (wrapRow (oy + r)) i = false := fun i => by
      have := (hy (wrapRow (oy + r))).1 rfl
      simp [spriteBit, this]
    rw [Blit.rows, ih _ (by omega), coll_columns _ _ _ hox (Nat.le_refl 8)]
    simp only [cell_columns _ _ _ hox (Nat.le_refl 8), spriteBit_cons b bs hoy (show r < 32 by omega)]
    constructor
    · rintro ((h | ⟨i, hi, hc⟩) | ⟨j, i, hi, hc⟩)
      · exact .inl h
      · exact .inr ⟨_, i, by simp [hoff, hi], hc⟩
      · have hne : j ≠ wrapRow (oy + r) := by rintro rfl; rw [hoff] at hi; cases hi
        exact .inr ⟨j, i, by simp [hi, hne], by simpa [hne] using hc⟩
    · rintro (h | ⟨j, i, hi, hc⟩)
      · exact .inl (.inl h)
      · by_cases hne : j = wrapRow (oy + r)
        · subst hne
          exact .inl (.inr ⟨i, by simpa [hoff] using hi, hc⟩)
        · exact .inr ⟨j, i, by simpa [hne] using hi, by simpa [hne] using hc⟩

/-- The sprite bit on a cell is what `SpriteOn` says in the spec's own terms (R173, R174). -/
theorem spriteBit_iff_spriteOn {s : State} {vx vy : Byte} {n : Nat} (hn : n ≤ 32) (j : Fin 32) (i : Fin 64) :
    spriteBit (vx.toNat % 64) (vy.toNat % 32) 0 (s.mem.readBytes s.font s.dataAddr n) j i = true ↔ s.SpriteOn vx vy n j i := by
  have hx : ∀ c, c < 8 → (spriteCol (vx.toNat % 64) i = c ↔ i.val = (vx.toNat + c) % 64) := by
    intro c hc; unfold spriteCol; omega
  have hy : ∀ r, r < 32 → (spriteRow (vy.toNat % 32) j = r ↔ j.val = (vy.toNat + r) % 32) := by
    intro r hr; unfold spriteRow; omega
  unfold spriteBit rowBit State.SpriteOn
  simp only [Nat.sub_self, Nat.zero_le, decide_true, Bool.true_and, Bool.and_eq_true, decide_eq_true_eq, Nat.sub_zero]
  constructor
  · rintro ⟨hc, hb⟩
    have hr : spriteRow (vy.toNat % 32) j < n := by
      by_contra h
      rw [List.getD_eq_default _ _ (by simpa using h)] at hb
      simp at hb
    refine ⟨_, _, hr, hc, (hy _ (by omega)).1 rfl, (hx _ hc).1 rfl, ?_⟩
    rw [List.getD_eq_getElem _ _ (by simpa using hr), Memory.getElem_readBytes] at hb
    exact hb
  · rintro ⟨r, c, hr, hc, h1, h2, hb⟩
    rw [(hy r (by omega)).2 h1, (hx c hc).2 h2]
    refine ⟨hc, ?_⟩
    rw [List.getD_eq_getElem _ _ (by simpa using hr), Memory.getElem_readBytes]
    exact hb

/-- The cells of a drawn sprite (R177). -/
theorem cell_drawSprite (s : State) (vx vy : Byte) {n : Nat} (hn : n ≤ 32) (j : Fin 32) (i : Fin 64) :
    (drawSprite s.fb vx vy (s.mem.readBytes s.font s.dataAddr n)).fb.cell j i = true ↔
      ¬(s.fb.cell j i = true ↔ s.SpriteOn vx vy n j i) := by
  rw [← spriteBit_iff_spriteOn hn, drawSprite, cell_rows _ _ (by omega) (by omega) (by simpa using hn)]
  cases s.fb.cell j i <;> simp

/-- The collision of a drawn sprite (R176). -/
theorem coll_drawSprite (s : State) (vx vy : Byte) {n : Nat} (hn : n ≤ 32) :
    (drawSprite s.fb vx vy (s.mem.readBytes s.font s.dataAddr n)).coll = true ↔
      ∃ j i, s.SpriteOn vx vy n j i ∧ s.fb.cell j i = true := by
  simp only [← spriteBit_iff_spriteOn (s := s) (vx := vx) (vy := vy) hn]
  rw [drawSprite, coll_rows _ _ (by omega) (by omega) (by simpa using hn)]
  simp

/-! ## The display instructions' end -/

@[simp] theorem drawn_fb (s : State) (t : Blit) : (s.drawn t).fb = t.fb := rfl
@[simp] theorem drawn_draw (s : State) (t : Blit) : (s.drawn t).draw = true := rfl
@[simp] theorem drawn_pc (s : State) (t : Blit) : (s.drawn t).pc = s.pc + 2 := rfl
@[simp] theorem drawn_byteAt (s : State) (t : Blit) (a : Nat) : (s.drawn t).byteAt a = s.byteAt a := rfl
@[simp] theorem drawn_keyDown (s : State) (t : Blit) (k : Fin 16) : (s.drawn t).keyDown k = s.keyDown k := rfl
@[simp] theorem drawn_reg (s : State) (t : Blit) (j : RegIdx) :
    (s.drawn t).reg j = if j = vf then flagByte t.coll else s.reg j := by simp [State.drawn]

end Sys2Proof.Machine
end

