-- ==== Sys2Proof/Laws/PerInstr.lean ====
section
/-! SUPPORT. Statements about every instruction as syntax, one lemma per constructor. -/

namespace Sys2Proof.Laws

/-! ## WellFormed: every operand fits its field and no two overlap (R91) -/

/-- The instruction's operands fit the fields of the word. -/
def WellFormed.Statement (i : Instr) : Prop := i.wellFormed = true

theorem wellFormed_nnn (nnn : Addr12) : operandsWellFormed [⟨11, 0, nnn.toNat⟩] = true := by
  simp [operandsWellFormed, Operand.fits, nnn.isLt]

theorem wellFormed_x (x : RegIdx) : operandsWellFormed [⟨11, 8, x.val⟩] = true := by
  simp [operandsWellFormed, Operand.fits, x.isLt]

theorem wellFormed_xkk (x : RegIdx) (kk : Byte) : operandsWellFormed [⟨11, 8, x.val⟩, ⟨7, 0, kk.toNat⟩] = true := by
  simp [operandsWellFormed, Operand.fits, Operand.disjoint, x.isLt, kk.isLt]

theorem wellFormed_xy (x y : RegIdx) : operandsWellFormed [⟨11, 8, x.val⟩, ⟨7, 4, y.val⟩] = true := by
  simp [operandsWellFormed, Operand.fits, Operand.disjoint, x.isLt, y.isLt]

theorem wellFormed_xyn (x y : RegIdx) (n : Fin 16) :
    operandsWellFormed [⟨11, 8, x.val⟩, ⟨7, 4, y.val⟩, ⟨3, 0, n.val⟩] = true := by
  simp [operandsWellFormed, Operand.fits, Operand.disjoint, x.isLt, y.isLt, n.isLt]

theorem WellFormed.cls : WellFormed.Statement .cls := rfl

theorem WellFormed.ret : WellFormed.Statement .ret := rfl

theorem WellFormed.jp (nnn : Addr12) : WellFormed.Statement (.jp nnn) := wellFormed_nnn nnn

theorem WellFormed.call (nnn : Addr12) : WellFormed.Statement (.call nnn) := wellFormed_nnn nnn

theorem WellFormed.seImm (x : RegIdx) (kk : Byte) : WellFormed.Statement (.seImm x kk) := wellFormed_xkk x kk

theorem WellFormed.sneImm (x : RegIdx) (kk : Byte) : WellFormed.Statement (.sneImm x kk) := wellFormed_xkk x kk

theorem WellFormed.seReg (x y : RegIdx) : WellFormed.Statement (.seReg x y) := wellFormed_xy x y

theorem WellFormed.ldImm (x : RegIdx) (kk : Byte) : WellFormed.Statement (.ldImm x kk) := wellFormed_xkk x kk

theorem WellFormed.addImm (x : RegIdx) (kk : Byte) : WellFormed.Statement (.addImm x kk) := wellFormed_xkk x kk

theorem WellFormed.ldReg (x y : RegIdx) : WellFormed.Statement (.ldReg x y) := wellFormed_xy x y

theorem WellFormed.orReg (x y : RegIdx) : WellFormed.Statement (.orReg x y) := wellFormed_xy x y

theorem WellFormed.andReg (x y : RegIdx) : WellFormed.Statement (.andReg x y) := wellFormed_xy x y

theorem WellFormed.xorReg (x y : RegIdx) : WellFormed.Statement (.xorReg x y) := wellFormed_xy x y

theorem WellFormed.addReg (x y : RegIdx) : WellFormed.Statement (.addReg x y) := wellFormed_xy x y

theorem WellFormed.subReg (x y : RegIdx) : WellFormed.Statement (.subReg x y) := wellFormed_xy x y

theorem WellFormed.shr (x : RegIdx) : WellFormed.Statement (.shr x) := wellFormed_x x

theorem WellFormed.subnReg (x y : RegIdx) : WellFormed.Statement (.subnReg x y) := wellFormed_xy x y

theorem WellFormed.shl (x : RegIdx) : WellFormed.Statement (.shl x) := wellFormed_x x

theorem WellFormed.sneReg (x y : RegIdx) : WellFormed.Statement (.sneReg x y) := wellFormed_xy x y

theorem WellFormed.ldI (nnn : Addr12) : WellFormed.Statement (.ldI nnn) := wellFormed_nnn nnn

theorem WellFormed.jpV0 (nnn : Addr12) : WellFormed.Statement (.jpV0 nnn) := wellFormed_nnn nnn

theorem WellFormed.rnd (x : RegIdx) (kk : Byte) : WellFormed.Statement (.rnd x kk) := wellFormed_xkk x kk

theorem WellFormed.drw (x y : RegIdx) (n : Fin 16) : WellFormed.Statement (.drw x y n) := wellFormed_xyn x y n

theorem WellFormed.skp (x : RegIdx) : WellFormed.Statement (.skp x) := wellFormed_x x

theorem WellFormed.sknp (x : RegIdx) : WellFormed.Statement (.sknp x) := wellFormed_x x

theorem WellFormed.ldVxDt (x : RegIdx) : WellFormed.Statement (.ldVxDt x) := wellFormed_x x

theorem WellFormed.ldVxK (x : RegIdx) : WellFormed.Statement (.ldVxK x) := wellFormed_x x

theorem WellFormed.ldDtVx (x : RegIdx) : WellFormed.Statement (.ldDtVx x) := wellFormed_x x

theorem WellFormed.ldStVx (x : RegIdx) : WellFormed.Statement (.ldStVx x) := wellFormed_x x

theorem WellFormed.addI (x : RegIdx) : WellFormed.Statement (.addI x) := wellFormed_x x

theorem WellFormed.ldF (x : RegIdx) : WellFormed.Statement (.ldF x) := wellFormed_x x

theorem WellFormed.ldB (x : RegIdx) : WellFormed.Statement (.ldB x) := wellFormed_x x

theorem WellFormed.storeRegs (x : RegIdx) : WellFormed.Statement (.storeRegs x) := wellFormed_x x

theorem WellFormed.loadRegs (x : RegIdx) : WellFormed.Statement (.loadRegs x) := wellFormed_x x

/-! ## RoundTrip: the decoder reads back the canonical word (R104) -/

/-- Decoding the instruction's canonical word gives the instruction. -/
def RoundTrip.Statement (i : Instr) : Prop := decodeWord (encode i) = some i

theorem RoundTrip.cls : RoundTrip.Statement .cls := rfl

theorem RoundTrip.ret : RoundTrip.Statement .ret := rfl

theorem RoundTrip.jp (nnn : Addr12) : RoundTrip.Statement (.jp nnn) := by
  simp [RoundTrip.Statement, encode, decodeWord]

theorem RoundTrip.call (nnn : Addr12) : RoundTrip.Statement (.call nnn) := by
  simp [RoundTrip.Statement, encode, decodeWord]

theorem RoundTrip.seImm (x : RegIdx) (kk : Byte) : RoundTrip.Statement (.seImm x kk) := by
  simp [RoundTrip.Statement, encode, decodeWord]

theorem RoundTrip.sneImm (x : RegIdx) (kk : Byte) : RoundTrip.Statement (.sneImm x kk) := by
  simp [RoundTrip.Statement, encode, decodeWord]

theorem RoundTrip.seReg (x y : RegIdx) : RoundTrip.Statement (.seReg x y) := by
  simp [RoundTrip.Statement, encode, decodeWord]

theorem RoundTrip.ldImm (x : RegIdx) (kk : Byte) : RoundTrip.Statement (.ldImm x kk) := by
  simp [RoundTrip.Statement, encode, decodeWord]

theorem RoundTrip.addImm (x : RegIdx) (kk : Byte) : RoundTrip.Statement (.addImm x kk) := by
  simp [RoundTrip.Statement, encode, decodeWord]

theorem RoundTrip.ldReg (x y : RegIdx) : RoundTrip.Statement (.ldReg x y) := by
  simp [RoundTrip.Statement, encode, decodeWord, decodeFamily8]

theorem RoundTrip.orReg (x y : RegIdx) : RoundTrip.Statement (.orReg x y) := by
  simp [RoundTrip.Statement, encode, decodeWord, decodeFamily8]

theorem RoundTrip.andReg (x y : RegIdx) : RoundTrip.Statement (.andReg x y) := by
  simp [RoundTrip.Statement, encode, decodeWord, decodeFamily8]

theorem RoundTrip.xorReg (x y : RegIdx) : RoundTrip.Statement (.xorReg x y) := by
  simp [RoundTrip.Statement, encode, decodeWord, decodeFamily8]

theorem RoundTrip.addReg (x y : RegIdx) : RoundTrip.Statement (.addReg x y) := by
  simp [RoundTrip.Statement, encode, decodeWord, decodeFamily8]

theorem RoundTrip.subReg (x y : RegIdx) : RoundTrip.Statement (.subReg x y) := by
  simp [RoundTrip.Statement, encode, decodeWord, decodeFamily8]

theorem RoundTrip.shr (x : RegIdx) : RoundTrip.Statement (.shr x) := by
  simp [RoundTrip.Statement, encode, decodeWord, decodeFamily8]

theorem RoundTrip.subnReg (x y : RegIdx) : RoundTrip.Statement (.subnReg x y) := by
  simp [RoundTrip.Statement, encode, decodeWord, decodeFamily8]

theorem RoundTrip.shl (x : RegIdx) : RoundTrip.Statement (.shl x) := by
  simp [RoundTrip.Statement, encode, decodeWord, decodeFamily8]

theorem RoundTrip.sneReg (x y : RegIdx) : RoundTrip.Statement (.sneReg x y) := by
  simp [RoundTrip.Statement, encode, decodeWord]

theorem RoundTrip.ldI (nnn : Addr12) : RoundTrip.Statement (.ldI nnn) := by
  simp [RoundTrip.Statement, encode, decodeWord]

theorem RoundTrip.jpV0 (nnn : Addr12) : RoundTrip.Statement (.jpV0 nnn) := by
  simp [RoundTrip.Statement, encode, decodeWord]

theorem RoundTrip.rnd (x : RegIdx) (kk : Byte) : RoundTrip.Statement (.rnd x kk) := by
  simp [RoundTrip.Statement, encode, decodeWord]

theorem RoundTrip.drw (x y : RegIdx) (n : Fin 16) : RoundTrip.Statement (.drw x y n) := by
  simp [RoundTrip.Statement, encode, decodeWord]

theorem RoundTrip.skp (x : RegIdx) : RoundTrip.Statement (.skp x) := by
  simp [RoundTrip.Statement, encode, decodeWord, decodeFamilyE]

theorem RoundTrip.sknp (x : RegIdx) : RoundTrip.Statement (.sknp x) := by
  simp [RoundTrip.Statement, encode, decodeWord, decodeFamilyE]

theorem RoundTrip.ldVxDt (x : RegIdx) : RoundTrip.Statement (.ldVxDt x) := by
  simp [RoundTrip.Statement, encode, decodeWord, decodeFamilyF]

theorem RoundTrip.ldVxK (x : RegIdx) : RoundTrip.Statement (.ldVxK x) := by
  simp [RoundTrip.Statement, encode, decodeWord, decodeFamilyF]

theorem RoundTrip.ldDtVx (x : RegIdx) : RoundTrip.Statement (.ldDtVx x) := by
  simp [RoundTrip.Statement, encode, decodeWord, decodeFamilyF]

theorem RoundTrip.ldStVx (x : RegIdx) : RoundTrip.Statement (.ldStVx x) := by
  simp [RoundTrip.Statement, encode, decodeWord, decodeFamilyF]

theorem RoundTrip.addI (x : RegIdx) : RoundTrip.Statement (.addI x) := by
  simp [RoundTrip.Statement, encode, decodeWord, decodeFamilyF]

theorem RoundTrip.ldF (x : RegIdx) : RoundTrip.Statement (.ldF x) := by
  simp [RoundTrip.Statement, encode, decodeWord, decodeFamilyF]

theorem RoundTrip.ldB (x : RegIdx) : RoundTrip.Statement (.ldB x) := by
  simp [RoundTrip.Statement, encode, decodeWord, decodeFamilyF]

theorem RoundTrip.storeRegs (x : RegIdx) : RoundTrip.Statement (.storeRegs x) := by
  simp [RoundTrip.Statement, encode, decodeWord, decodeFamilyF]

theorem RoundTrip.loadRegs (x : RegIdx) : RoundTrip.Statement (.loadRegs x) := by
  simp [RoundTrip.Statement, encode, decodeWord, decodeFamilyF]

end Sys2Proof.Laws
end

