-- ==== Sys2Proof/Machine/Assembly.lean ====
section
/-! DEFINITION. The assembler notation of an instruction (spec 30_encoding.md R102; mnemonics: decision D27). Text for
people: no step reads it. -/

namespace Sys2Proof.Machine

/-- One hexadecimal digit. -/
def hexDigit (n : Nat) : Char := "0123456789ABCDEF".toList.getD (n % 16) '0'

/-- The name of a register, by its hexadecimal digit (R20). -/
def regName (x : RegIdx) : String := "V" ++ String.ofList [hexDigit x.val]

/-- A number of `digits` hexadecimal digits, with `0x` before it (R102). -/
def hexNumber (digits n : Nat) : String :=
  "0x" ++ String.ofList ((List.range digits).reverse.map fun k => hexDigit (n / 16 ^ k))

/-- The notation of R102. -/
def assembly : Instr → String
  | .cls => "CLS"
  | .ret => "RET"
  | .jp nnn => "JP " ++ hexNumber 3 nnn.toNat
  | .call nnn => "CALL " ++ hexNumber 3 nnn.toNat
  | .seImm x kk => "SE " ++ regName x ++ "," ++ hexNumber 2 kk.toNat
  | .sneImm x kk => "SNE " ++ regName x ++ "," ++ hexNumber 2 kk.toNat
  | .seReg x y => "SE " ++ regName x ++ "," ++ regName y
  | .ldImm x kk => "LD " ++ regName x ++ "," ++ hexNumber 2 kk.toNat
  | .addImm x kk => "ADD " ++ regName x ++ "," ++ hexNumber 2 kk.toNat
  | .ldReg x y => "LD " ++ regName x ++ "," ++ regName y
  | .orReg x y => "OR " ++ regName x ++ "," ++ regName y
  | .andReg x y => "AND " ++ regName x ++ "," ++ regName y
  | .xorReg x y => "XOR " ++ regName x ++ "," ++ regName y
  | .addReg x y => "ADD " ++ regName x ++ "," ++ regName y
  | .subReg x y => "SUB " ++ regName x ++ "," ++ regName y
  | .shr x => "SHR " ++ regName x
  | .subnReg x y => "SUBN " ++ regName x ++ "," ++ regName y
  | .shl x => "SHL " ++ regName x
  | .sneReg x y => "SNE " ++ regName x ++ "," ++ regName y
  | .ldI nnn => "LD I," ++ hexNumber 3 nnn.toNat
  | .jpV0 nnn => "JP V0," ++ hexNumber 3 nnn.toNat
  | .rnd x kk => "RND " ++ regName x ++ "," ++ hexNumber 2 kk.toNat
  | .drw x y n => "DRW " ++ regName x ++ "," ++ regName y ++ "," ++ hexNumber 1 n.val
  | .skp x => "SKP " ++ regName x
  | .sknp x => "SKNP " ++ regName x
  | .ldVxDt x => "LD " ++ regName x ++ ",DT"
  | .ldVxK x => "LD " ++ regName x ++ ",K"
  | .ldDtVx x => "LD DT," ++ regName x
  | .ldStVx x => "LD ST," ++ regName x
  | .addI x => "ADD I," ++ regName x
  | .ldF x => "LD F," ++ regName x
  | .ldB x => "LD B," ++ regName x
  | .storeRegs x => "LD [I]," ++ regName x
  | .loadRegs x => "LD " ++ regName x ++ ",[I]"

end Sys2Proof.Machine
end

