-- ==== Sys2Proof/Tests/Slice0.lean ====
section
/-! SUPPORT. The model's own tests. Expected results are the spec's: the decoder table and the vectors of
95_test_vectors.md, named by their ids, and the worked tables of the rules cited. The second half holds the witnesses: for
each obligation with hypotheses, concrete states and operands that meet them, at the boundary of each clause. -/

namespace Sys2Proof.Tests

open Sys2Proof Sys2Proof.Machine

set_option Elab.async false

/-! ## Builders -/

/-- A state with some registers set. -/
def regs (s : State) (l : List (RegIdx × Byte)) : State := l.foldl (fun t p => t.setReg p.1 p.2) s

/-- A state with bytes in memory. -/
def bytes (s : State) (a : Nat) (l : List Byte) : State := s.setMem (s.mem.writeBytes s.font a l)

/-- A state with cells on, each given as (column, row). -/
def cells (s : State) (l : List (Fin 64 × Fin 32)) : State := s.setFb (l.foldl (fun fb p => fb.xorWrite p.2 p.1 true) s.fb)

/-- The outcome is a next state with a property. -/
def after (o : Host.Outcome State Fault Refusal) (p : State → Bool) : Bool :=
  match o with
  | .next t => p t
  | .fault _ => false
  | .refused _ => false

/-- One step of a vector: the word stored at pc, then the step. -/
def run (s : State) (w : Nat) (p : State → Bool) : Bool := after (step (s.withFetchWord 16 w)) p

/-- One step of a vector ends in "halt c": nothing but HALT and CAUSE changed. -/
def halts (s : State) (w : Nat) (c : BitVec 3) : Bool :=
  run s w fun t => decide (t = { s.withFetchWord 16 w with halt := true, cause := c })

/-- The state after reset. -/
abbrev R : State := State.reset

/-! ## WellFormed: each check refuses an ill-formed term -/

theorem test_operand_too_wide : Operand.fits ⟨11, 0, 0x1000⟩ = false ∧ Operand.fits ⟨11, 0, 0xFFF⟩ = true := by decide
theorem test_operand_bits_reversed : Operand.fits ⟨0, 3, 0⟩ = false := by decide
theorem test_operands_overlap : operandsWellFormed [⟨11, 8, 1⟩, ⟨8, 4, 2⟩] = false := by decide
theorem test_operands_second_too_wide : operandsWellFormed [⟨11, 8, 1⟩, ⟨7, 4, 16⟩] = false := by decide
theorem test_image_too_large :
    imageFits (List.replicate 3585 0) = false ∧ imageFits (List.replicate 3584 0) = true := by decide +kernel
theorem test_instruction_wellFormed : Instr.wellFormed (.drw 15 15 15) = true := by decide

/-! ## Decoding: words from the field layout of R91 and the tables of R94 to R98, bit by bit, and from T-dec -/

theorem test_decode_family0 :
    decodeWord 0b0000_0000_1110_0000 = some .cls ∧ decodeWord 0x01E0 = some .cls ∧
    decodeWord 0b0000_0000_1110_1110 = some .ret ∧ decodeWord 0x07EE = some .ret := by decide
theorem test_decode_address :
    decodeWord 0b0001_1010_1011_1100 = some (.jp 0xABC) ∧ decodeWord 0b0010_1010_1011_1100 = some (.call 0xABC) ∧
    decodeWord 0b1010_1111_1111_1111 = some (.ldI 0xFFF) ∧ decodeWord 0b1011_0011_0000_0000 = some (.jpV0 0x300) := by
  decide
theorem test_decode_byte :
    decodeWord 0b0011_0011_0010_1010 = some (.seImm 3 0x2A) ∧ decodeWord 0b0100_0000_0000_0000 = some (.sneImm 0 0) ∧
    decodeWord 0b0110_1111_1010_1010 = some (.ldImm 15 0xAA) ∧ decodeWord 0b0111_1010_0000_0001 = some (.addImm 10 1) ∧
    decodeWord 0b1100_0011_1111_0000 = some (.rnd 3 0xF0) := by decide
theorem test_decode_register_skips :
    decodeWord 0b0101_0001_0010_1111 = some (.seReg 1 2) ∧ decodeWord 0b1001_0011_0100_0001 = some (.sneReg 3 4) := by
  decide
theorem test_decode_family8 :
    decodeWord 0b1000_0001_0010_0000 = some (.ldReg 1 2) ∧ decodeWord 0b1000_0001_0010_0001 = some (.orReg 1 2) ∧
    decodeWord 0b1000_0001_0010_0010 = some (.andReg 1 2) ∧ decodeWord 0b1000_0001_0010_0011 = some (.xorReg 1 2) ∧
    decodeWord 0b1000_0001_0010_0100 = some (.addReg 1 2) ∧ decodeWord 0b1000_0001_0010_0101 = some (.subReg 1 2) ∧
    decodeWord 0b1000_0001_1010_0110 = some (.shr 1) ∧ decodeWord 0b1000_0001_0010_0111 = some (.subnReg 1 2) ∧
    decodeWord 0b1000_0001_1010_1110 = some (.shl 1) := by decide
theorem test_decode_drw : decodeWord 0b1101_0001_0010_0101 = some (.drw 1 2 5) := by decide
theorem test_decode_familyE :
    decodeWord 0b1110_1111_1001_1110 = some (.skp 15) ∧ decodeWord 0b1110_0010_1010_0001 = some (.sknp 2) := by decide
theorem test_decode_familyF :
    decodeWord 0b1111_0011_0000_0111 = some (.ldVxDt 3) ∧ decodeWord 0b1111_0101_0000_1010 = some (.ldVxK 5) ∧
    decodeWord 0b1111_0011_0001_0101 = some (.ldDtVx 3) ∧ decodeWord 0b1111_0011_0001_1000 = some (.ldStVx 3) ∧
    decodeWord 0b1111_0001_0001_1110 = some (.addI 1) ∧ decodeWord 0b1111_0010_0010_1001 = some (.ldF 2) ∧
    decodeWord 0b1111_0011_0011_0011 = some (.ldB 3) ∧ decodeWord 0b1111_0010_0101_0101 = some (.storeRegs 2) ∧
    decodeWord 0b1111_0010_0110_0101 = some (.loadRegs 2) := by decide
theorem test_decode_unknown_family0 :
    decodeWord 0x0000 = none ∧ decodeWord 0x00E1 = none ∧ decodeWord 0x00EF = none ∧ decodeWord 0x0123 = none ∧
    decodeWord 0x0FFF = none := by decide
theorem test_decode_unknown_family8 :
    decodeWord 0x8128 = none ∧ decodeWord 0x8129 = none ∧ decodeWord 0x812A = none ∧ decodeWord 0x812B = none ∧
    decodeWord 0x812C = none ∧ decodeWord 0x812D = none ∧ decodeWord 0x812F = none := by decide
theorem test_decode_unknown_familyE :
    decodeWord 0xE000 = none ∧ decodeWord 0xE09F = none ∧ decodeWord 0xE0A0 = none ∧ decodeWord 0xE19D = none ∧
    decodeWord 0xEFFF = none := by decide
theorem test_decode_unknown_familyF :
    decodeWord 0xF000 = none ∧ decodeWord 0xF008 = none ∧ decodeWord 0xF016 = none ∧ decodeWord 0xF01F = none ∧
    decodeWord 0xF030 = none ∧ decodeWord 0xF056 = none ∧ decodeWord 0xF064 = none ∧ decodeWord 0xF066 = none ∧
    decodeWord 0xF075 = none ∧ decodeWord 0xFFFF = none := by decide
theorem test_decode_bytes :
    decode [0x81, 0x24, 0x77] = .ok (.addReg 1 2, [0x77]) ∧ decode [0x81] = .error .truncated ∧
    decode [] = .error .truncated ∧ decode [0x00, 0x00] = .error (.unknownOpcode 0) := by decide
theorem test_decode_table_word :
    decodeTableWord 16 0xD125 = some (.drw 1 2 5) ∧ decodeTableWord 16 0x0000 = none := by decide

/-! ## Reset and the font (R39, R262) -/

theorem test_reset_font : (R.byteAt 0x05, R.byteAt 0x06, R.byteAt 0x23, R.byteAt 0x4F, R.byteAt 0x50) =
    (0x20, 0x60, 0xF0, 0x80, 0x00) := by decide +kernel
theorem test_reset_other_font :
    ((State.resetWith (Vector.replicate 80 0xAA)).external .reset).1.byteAt 0x4F = 0xAA ∧
    (coreWith (Vector.replicate 80 0xAA)).reset = State.resetWith (Vector.replicate 80 0xAA) := ⟨by decide +kernel, rfl⟩
theorem test_core_reset_pc : (core.reset : State).pc = 0x200 := rfl

/-! ## Control flow (T1 to T18b) -/

theorem test_T3_ret : run { R with sp := 2, stack := (R.stack.set 0 0x222).set 1 0x456, pc := 0x300 } 0x07EE
    (fun t => t.pc == 0x458 && t.sp == 1) = true := by decide +kernel
theorem test_T2_ret_underflow : halts R 0x00EE 2 = true := by decide +kernel
theorem test_T5_jp : run R 0x1FFF (fun t => t.pc == 0xFFF && after (step t) (fun u => u.cause == 3)) = true := by
  decide +kernel
theorem test_T7_call : run { R with sp := 15 } 0x2300
    (fun t => t.pc == 0x300 && t.sp == 16 && t.stack.get 15 == 0x200) = true := by decide +kernel
theorem test_T8_call_overflow : halts { R with sp := 16 } 0x2300 1 = true := by decide +kernel
theorem test_T9_seImm : run (regs R [(3, 0x2A)]) 0x332A (fun t => t.pc == 0x204) = true := by decide +kernel
theorem test_T10_seImm : run (regs R [(3, 0x2B)]) 0x332A (fun t => t.pc == 0x202) = true := by decide +kernel
theorem test_T11_sneImm : run R 0x4000 (fun t => t.pc == 0x202) = true := by decide +kernel
theorem test_T12_sneImm : run (regs R [(0, 1)]) 0x4000 (fun t => t.pc == 0x204) = true := by decide +kernel
theorem test_T13_seReg : run (regs R [(1, 7), (2, 7)]) 0x5120 (fun t => t.pc == 0x204) = true := by decide +kernel
theorem test_T14_seReg : run (regs R [(1, 7), (2, 8)]) 0x512F (fun t => t.pc == 0x202) = true := by decide +kernel
theorem test_T15_sneReg : run (regs R [(1, 7), (2, 8)]) 0x9120 (fun t => t.pc == 0x204) = true := by decide +kernel
theorem test_T16_sneReg : run (regs R [(3, 9)]) 0x9337 (fun t => t.pc == 0x202) = true := by decide +kernel
theorem test_T18_jpV0 : run (regs R [(0, 0xFF)]) 0xBFFF (fun t => t.pc == 0x10FE) = true := by decide +kernel
theorem test_T18b_jpV0 : run (regs R [(0, 2), (2, 0x77)]) 0xB2FF (fun t => t.pc == 0x301) = true := by decide +kernel

/-! ## Immediates and random (T20 to T29c) -/

theorem test_T21_ldImm : run R 0x6FAA (fun t => t.reg 15 == 0xAA && t.pc == 0x202) = true := by decide +kernel
theorem test_T23_addImm : run (regs R [(10, 0xFF)]) 0x7A01 (fun t => t.reg 10 == 0 && t.reg 15 == 0) = true := by
  decide +kernel
theorem test_T24_addImm : run (regs R [(15, 2)]) 0x7FFF (fun t => t.reg 15 == 1) = true := by decide +kernel
theorem test_T26_ldI : run { R with i := 0x1234 } 0xAFFF (fun t => t.i == 0xFFF && t.pc == 0x202) = true := by
  decide +kernel
theorem test_T27_rnd : (rndWith 0xA7 3 0x0F R).reg 3 = 0x07 := by decide
theorem test_T29c_rnd : ∃ t, exec (.rnd 3 0xF0) R = .next t ∧ (t.reg 3).toNat % 16 = 0 := by
  refine ⟨_, rfl, ?_⟩
  have h : (rndWith (Config.rndByte R.rndCount) 3 0xF0 R).reg 3 = Config.rndByte R.rndCount &&& 0xF0 := by simp [rndWith]
  rw [h]
  generalize Config.rndByte R.rndCount = b
  revert b
  decide

/-! ## Family 8 (A1 to A25) -/

theorem test_A1_ldReg : run (regs R [(2, 0x9C), (15, 1)]) 0x8120 (fun t => t.reg 1 == 0x9C && t.reg 15 == 1) = true := by
  decide +kernel
theorem test_A2_or : run (regs R [(1, 0x0F), (2, 0xF0), (15, 1)]) 0x8121
    (fun t => t.reg 1 == 0xFF && t.reg 15 == 1) = true := by decide +kernel
theorem test_A3_and : run (regs R [(1, 0x3C), (2, 0x0F), (15, 1)]) 0x8122
    (fun t => t.reg 1 == 0x0C && t.reg 15 == 1) = true := by decide +kernel
theorem test_A4_xor : run (regs R [(1, 0xFF), (2, 0x0F), (15, 1)]) 0x8123
    (fun t => t.reg 1 == 0xF0 && t.reg 15 == 1) = true := by decide +kernel
theorem test_A9_addReg : run (regs R [(15, 0xFF), (1, 2)]) 0x8F14 (fun t => t.reg 15 == 1) = true := by decide +kernel
theorem test_A10_addReg : run (regs R [(1, 0xFF), (15, 1)]) 0x81F4 (fun t => t.reg 1 == 0 && t.reg 15 == 1) = true := by
  decide +kernel
theorem test_A12_sub : run (regs R [(1, 3), (2, 5), (15, 1)]) 0x8125 (fun t => t.reg 1 == 0xFE && t.reg 15 == 0) = true := by
  decide +kernel
theorem test_A13_sub : run (regs R [(1, 7), (2, 7), (15, 1)]) 0x8125 (fun t => t.reg 1 == 0 && t.reg 15 == 0) = true := by
  decide +kernel
theorem test_A17_shr : run (regs R [(1, 0x80), (10, 0xFF), (15, 1)]) 0x81A6
    (fun t => t.reg 1 == 0x40 && t.reg 15 == 0) = true := by decide +kernel
theorem test_A18_shr : run (regs R [(15, 2)]) 0x8F06 (fun t => t.reg 15 == 0) = true := by decide +kernel
theorem test_A19_subn : run (regs R [(1, 3), (2, 5)]) 0x8127 (fun t => t.reg 1 == 2 && t.reg 15 == 1) = true := by
  decide +kernel
theorem test_A21_subn : run (regs R [(1, 0x20), (2, 0x10)]) 0x8127 (fun t => t.reg 1 == 0xF0 && t.reg 15 == 0) = true := by
  decide +kernel
theorem test_A23_shl : run (regs R [(1, 0x81)]) 0x810E (fun t => t.reg 1 == 2 && t.reg 15 == 1) = true := by
  decide +kernel
theorem test_A25_shl : run (regs R [(15, 0x80)]) 0x8F0E (fun t => t.reg 15 == 1) = true := by decide +kernel

/-! ## Display (D1 to D12) -/

theorem test_D1_cls : run (cells R [(0, 0), (63, 31)]) 0x00E0
    (fun t => !t.fb.cell 0 0 && !t.fb.cell 31 63 && t.draw && t.pc == 0x202) = true := by decide +kernel
theorem test_D4_drw_row_wrap : run { bytes (regs R [(1, 31)]) 0x300 [0x80, 0x01] with i := 0x300 } 0xD012
    (fun t => t.fb.cell 31 0 && t.fb.cell 0 7 && !t.fb.cell 0 0 && !t.fb.cell 31 7 && t.reg 15 == 0 && t.draw) = true := by
  decide +kernel
theorem test_D11_drw_old_flag_is_row :
    run { cells (bytes (regs R [(15, 5), (0, 3)]) 0x300 [0x80]) [(3, 5)] with i := 0x300 } 0xD0F1
    (fun t => !t.fb.cell 5 3 && !t.fb.cell 3 5 && t.reg 15 == 1) = true := by decide +kernel

/-! ## Keypad (K1 to K11) -/

theorem test_K1_skp : run ((regs R [(2, 0x0A)]).setKey 10 true) 0xE29E (fun t => t.pc == 0x204) = true := by decide +kernel
theorem test_K5_skp_fault : halts (regs R [(2, 0x10)]) 0xE29E 4 = true := by decide +kernel
theorem test_K3_sknp : run ((regs R [(2, 0x0A)]).setKey 10 true) 0xE2A1 (fun t => t.pc == 0x202) = true := by
  decide +kernel
theorem test_K6_sknp_fault : halts ((regs R [(2, 0xFF)]).setKey 15 true) 0xE2A1 4 = true := by decide +kernel
theorem test_K8_ldVxK : run ((regs R [(5, 0x77)]).setKey 9 true |>.setKey 3 true) 0xF50A
    (fun t => t.reg 5 == 3 && t.pc == 0x202) = true := by decide +kernel
theorem test_K9_ldVxK_waits : run { regs R [(5, 0x77)] with dt := 5, st := 1 } 0xF50A
    (fun t => t.reg 5 == 0x77 && t.pc == 0x200 && t.dt == 4 && t.st == 0 && t.ports.soundActive) = true := by
  decide +kernel

/-! ## Timers, I and memory (F1 to F24) -/

theorem test_F1_ldVxDt : run { R with dt := 0x10 } 0xF307 (fun t => t.reg 3 == 0x10 && t.dt == 0x0F) = true := by
  decide +kernel
theorem test_F2_ldDtVx : run (regs R [(3, 5)]) 0xF315 (fun t => t.dt == 4) = true := by decide +kernel
theorem test_F3_ldStVx : run (regs R [(3, 2)]) 0xF318 (fun t => t.st == 1 && t.ports.soundActive) = true := by
  decide +kernel
theorem test_F8_addI : run { regs R [(1, 1)] with i := 0xFFFF } 0xF11E (fun t => t.i == 0 && t.reg 15 == 1) = true := by
  decide +kernel
theorem test_F9_addI : run { regs R [(15, 1)] with i := 0xFFE } 0xFF1E (fun t => t.i == 0xFFF && t.reg 15 == 0) = true := by
  decide +kernel
theorem test_F11_ldF : run (regs R [(2, 0xFF)]) 0xF229 (fun t => t.i == 0x4FB) = true := by decide +kernel
theorem test_F12_ldB : run { regs R [(3, 0xFF)] with i := 0x300 } 0xF333
    (fun t => (t.byteAt 0x300, t.byteAt 0x301, t.byteAt 0x302) == (2, 5, 5) && t.i == 0x300) = true := by decide +kernel
theorem test_F15_ldB_fault : halts { regs R [(3, 0x64)] with i := 0xFFE } 0xF333 3 = true := by decide +kernel
theorem test_F16_storeRegs : run { regs R [(0, 0x11), (1, 0x22), (2, 0x33), (3, 0x44)] with i := 0x300 } 0xF255
    (fun t => (t.byteAt 0x300, t.byteAt 0x302, t.byteAt 0x303) == (0x11, 0x33, 0) && t.i == 0x303) = true := by
  decide +kernel
theorem test_F18_storeRegs_fault : halts { regs R [(0, 0xAB)] with i := 0xFFF } 0xF155 3 = true := by decide +kernel
theorem test_F20_loadRegs :
    run { bytes (regs R [(3, 0x99)]) 0x300 [0x11, 0x22, 0x33, 0x44] with i := 0x300 } 0xF265
    (fun t => (t.reg 0, t.reg 2, t.reg 3) == (0x11, 0x33, 0x99) && t.i == 0x303) = true := by decide +kernel
theorem test_F23_loadRegs_fault : halts { R with i := 0x1000 } 0xF065 3 = true := by decide +kernel

/-! ## Unknown opcodes, the halted core, the outside (X1 to X9), notation (R102) -/

theorem test_X1_unknown : run { R with dt := 1, st := 1 } 0x0000
    (fun t => t.pc == 0x202 && t.dt == 0 && t.ports.unkWord == some 0 && t.ports.soundActive) = true := by decide +kernel
theorem test_X3_halted : run { R with halt := true, cause := 2, dt := 5, st := 5 } 0x6001
    (fun t => t.reg 0 == 0 && t.pc == 0x200 && t.dt == 5 && t.cause == 2) = true := by decide +kernel
theorem test_X9_take_draw_flag : ({ R with draw := true }.external .takeDrawFlag).2 = .bit true ∧
    ({ R with draw := true }.external .takeDrawFlag).1.draw = false := by decide
theorem test_P1_load_and_run :
    after (runEvents [.external (.load (.image [0x60, 0x05, 0x70, 0x03])), .step, .step] R)
      (fun t => t.reg 0 == 8 && t.pc == 0x204) = true := by decide +kernel
theorem test_assembly : assembly (.drw 1 2 5) = "DRW V1,V2,0x5" ∧ assembly (.ldImm 0 5) = "LD V0,0x05" ∧
    assembly (.jp 0x204) = "JP 0x204" ∧ assembly (.loadRegs 2) = "LD V2,[I]" := by decide

/-! ## Witnesses -/

/-- A state about to run a word. -/
abbrev at200 (s : State) (w : Nat) : State := s.withFetchWord 16 w

theorem witness_EncodeOfDecodeKeepsCareBits : decodeWord 0x512F = some (.seReg 1 2) := by decide

theorem witness_EveryEncodingHasItsMaskAndFields : ∀ r ∈ opcodeMap, r.pattern &&& r.mask = r.pattern := by
  simp only [opcodeMap, opcodeMapA, opcodeMapB, opcodeMapC, List.cons_append, List.nil_append, List.forall_mem_cons]
  decide

theorem witness_DecoderIsTheOpcodeMap :
    (∃ r, ∃ _ : r ∈ opcodeMap, 0x0FE0 &&& r.mask = r.pattern) ∧ ∀ r ∈ opcodeMap, 0x0000 &&& r.mask ≠ r.pattern :=
  ⟨⟨⟨0xF0FF, 0x00E0, fun _ => .cls⟩, List.mem_cons_self, by decide⟩, by
    simp only [opcodeMap, opcodeMapA, opcodeMapB, opcodeMapC, List.cons_append, List.nil_append, List.forall_mem_cons]
    decide⟩

theorem witness_StepRunsDecodedInstruction :
    { R with halt := true }.halt = true ∧
    (R.halt = false ∧ 0xFFF ≤ { R with pc := 0xFFF }.pc.toNat) ∧
    ({ R with pc := 0xFFE }.pc.toNat ≤ 0xFFE ∧ decodeWord ({ R with pc := 0xFFE }.wordAt 0xFFE) = none) ∧
    ((at200 R 0x6005).halt = false ∧ (at200 R 0x6005).NextIs (.ldImm 0 5)) ∧
    ((at200 R 0x00EE).halt = false ∧ (at200 R 0x00EE).NextIs .ret ∧ after (exec .ret (at200 R 0x00EE)) (·.halt) = true) := by
  unfold State.NextIs
  decide +kernel

theorem witness_FetchIsBigEndian :
    { R with pc := 0xFFE }.pc.toNat + 1 ≤ 0xFFF ∧ 0xFFF < { R with pc := 0xFFF }.pc.toNat + 1 := by decide

theorem witness_TickFollowsTheInstruction :
    R.halt = false ∧ ∃ u, step (at200 R 0x6005) = .next u ∧ u.halt = false := ⟨rfl, _, rfl, by decide +kernel⟩

theorem witness_UnknownOpcodeIsReportedNotFatal :
    (R.halt = false ∧ R.pc.toNat ≤ 0xFFE ∧ decodeWord (R.wordAt R.pc.toNat) = none) ∧
    ∃ t, step R = .next t ∧ t.ports.unk = true := ⟨by decide +kernel, _, rfl, by decide +kernel⟩

theorem witness_FaultsArePrecise :
    (at200 R 0x00EE).halt = false ∧ ∃ t, step (at200 R 0x00EE) = .next t ∧ t.halt = true :=
  ⟨by decide +kernel, _, rfl, by decide +kernel⟩

theorem witness_FaultsHaveExactlyTheirCauses :
    ((at200 { R with sp := 16 } 0x2300).NextIs (.call 0x300) ∧ (at200 { R with sp := 16 } 0x2300).sp.val = 16) ∧
    ((at200 R 0x00EE).NextIs .ret ∧ (at200 R 0x00EE).sp.val = 0) ∧
    0xFFF ≤ { R with pc := 0xFFF }.pc.toNat ∧
    ((at200 { R with i := 0x1000 } 0xD011).NextIs (.drw 0 1 1) ∧ 0xFFF < 0x1000 + 1 - 1) ∧
    ((at200 { R with i := 0xFFE } 0xF333).NextIs (.ldB 3) ∧ 0xFFF < 0xFFE + 2) ∧
    ((at200 { R with i := 0x1000 } 0xF055).NextIs (.storeRegs 0) ∧ 0xFFF < 0x1000 + 0) ∧
    ((at200 { R with i := 0xFF1 } 0xFF65).NextIs (.loadRegs 15) ∧ 0xFFF < 0xFF1 + 15) ∧
    ((at200 (regs R [(2, 16)]) 0xE29E).NextIs (.skp 2) ∧ 15 < ((regs R [(2, 16)]).reg 2).toNat) ∧
    ((at200 (regs R [(2, 16)]) 0xE2A1).NextIs (.sknp 2) ∧ 15 < ((regs R [(2, 16)]).reg 2).toNat) := by
  unfold State.NextIs
  decide +kernel

theorem witness_HaltedCoreIsFrozen : { R with halt := true, cause := 1, draw := true }.halt = true := rfl

theorem witness_EveryInstructionKeepsItsFrame :
    R.halt = false ∧ ∃ t, exec (.addReg 1 2) R = .next t ∧ t.halt = false := ⟨rfl, _, rfl, by decide +kernel⟩

theorem witness_FlagIsWrittenBySevenInstructions :
    (writesFlag (.addReg 1 2) = true ∧ ∃ t, exec (.addReg 1 2) R = .next t ∧ t.halt = false) ∧
    (writesFlag (.orReg 1 2) = false ∧ 15 ∉ (effects R (.orReg 1 2)).regs ∧
      ∃ t, exec (.orReg 1 2) R = .next t ∧ t.halt = false) :=
  ⟨⟨rfl, _, rfl, by decide +kernel⟩, rfl, by decide, _, rfl, by decide +kernel⟩

theorem witness_UnreadStateDoesNotInfluence : ∃ t, exec (.ldStVx 3) R = .next t := ⟨_, rfl⟩

theorem witness_KeysInfluenceOnlyKeyInstructions :
    (∀ x, Instr.cls ≠ .skp x ∧ Instr.cls ≠ .sknp x ∧ Instr.cls ≠ .ldVxK x) ∧ ∃ t, exec .cls R = .next t :=
  ⟨fun _ => ⟨nofun, nofun, nofun⟩, _, rfl⟩

theorem witness_PictureInfluencesOnlyDrw : (∀ x y n, Instr.cls ≠ .drw x y n) ∧ ∃ t, exec .cls R = .next t :=
  ⟨fun _ _ _ => nofun, _, rfl⟩

/-- A state in the middle of a run: two frames active, a byte stored, pc at its highest. -/
def midRun : State :=
  { bytes R 0x300 [0x12] with sp := 2, stack := (R.stack.set 0 0x200).set 1 0xFFE, pc := 0x10FE }

theorem witness_StepKeepsInvariant : midRun.Inv ∧ ∃ t, step midRun = .next t :=
  ⟨⟨by decide +kernel, by unfold State.LatchOk; decide +kernel, by unfold State.FramesOk; decide +kernel,
    by decide +kernel⟩, _, rfl⟩

theorem witness_ReachableStatesMeetInvariant : midRun.Inv ∧ Reachable (R.setKey 3 true) :=
  ⟨witness_StepKeepsInvariant.1, .event (.external (.setKey 3 true)) (.reset defaultFont) rfl⟩

theorem witness_CanonicalMemoriesAreEqualData :
    Memory.wf defaultFont [(0x000, 0x00), (0xFFF, 0x01)] = true ∧ Memory.wf defaultFont [(0xFFF, 0x00)] = false ∧
    Memory.wf (Vector.replicate 80 0) [(0x000, 0x00)] = false := by decide +kernel

theorem witness_ByteAccesses : (0xFFF ≤ 0xFFF ∧ R.mem.wf R.font = true) ∧ 0xFFF < 0x1000 := by decide

theorem witness_StoreIsSeenByNextFetch :
    R.mem.wf R.font = true ∧ 1 ≤ (1 : RegIdx).val ∧
    { R with pc := 0xFFC, i := 0xFFE }.i = { R with pc := 0xFFC, i := 0xFFE }.pc + 2 ∧
    { R with pc := 0xFFC, i := 0xFFE }.i.toNat + (1 : RegIdx).val ≤ 0xFFF := by decide

theorem witness_RetPopsOrUnderflows :
    { R with sp := 1 }.sp.val = (0 : Fin 16).val + 1 ∧ { R with sp := 16 }.sp.val = (15 : Fin 16).val + 1 ∧
    R.sp.val = 0 := by decide

theorem witness_CallPushesOrOverflows :
    R.sp.val = (0 : Fin 16).val ∧ { R with sp := 15 }.sp.val = (15 : Fin 16).val ∧ { R with sp := 16 }.sp.val = 16 := by
  decide

/-- The program of S5 with the subroutine at 0x300. -/
def callRet (sp : Fin 17) : State := { bytes (bytes R 0x200 [0x23, 0x00]) 0x300 [0x00, 0xEE] with sp := sp }

theorem witness_CallThenRetComesBack :
    ∀ sp ∈ ([0, 15] : List (Fin 17)), (callRet sp).halt = false ∧ (callRet sp).sp.val < 16 ∧
      (callRet sp).NextIs (.call 0x300) ∧ (0x300 : Addr12).toNat ≤ 0xFFE ∧
      decodeWord ((callRet sp).wordAt (0x300 : Addr12).toNat) = some .ret := by
  unfold State.NextIs
  decide +kernel

theorem witness_RndMasksAFreeByte :
    (0xF0 : Byte).getLsbD 0 = false ∧ (∀ x kk, Instr.cls ≠ .rnd x kk) ∧ ∃ t, exec .cls R = .next t :=
  ⟨by decide, fun _ _ => nofun, _, rfl⟩

theorem witness_AddRegSetsCarry : (0 : RegIdx) ≠ 15 ∧ (14 : RegIdx) ≠ 15 := by decide
theorem witness_SubtractionsSetStrictFlag : (0 : RegIdx) ≠ 15 ∧ (14 : RegIdx) ≠ 15 := by decide
theorem witness_ShiftsMoveOneBitToFlag : (0 : RegIdx) ≠ 15 ∧ (14 : RegIdx) ≠ 15 := by decide

theorem witness_CountingByOneWrapsAndCarriesOnce :
    (3 : RegIdx) ≠ 4 ∧ (3 : RegIdx) ≠ 15 ∧ (4 : RegIdx) ≠ 15 ∧ ((regs R [(3, 0xFE), (4, 1)]).reg 4).toNat = 1 ∧ 0 < 1 := by
  decide

/-- A sprite of one set pixel at the last byte of memory. -/
def lastByteSprite : State := { bytes R 0xFFF [0x80] with i := 0xFFF }

theorem witness_DrwXorsTheSpriteWithWrap :
    ((0 : Fin 16).val = 0 ∨ { R with i := 0xFFFF }.i.toNat + (0 : Fin 16).val - 1 ≤ 0xFFF) ∧
    ((1 : Fin 16).val = 0 ∨ lastByteSprite.i.toNat + (1 : Fin 16).val - 1 ≤ 0xFFF) ∧
    ((cells lastByteSprite [(0, 0)]).SpriteOn 0 0 1 0 0 ∧ (cells lastByteSprite [(0, 0)]).fb.cell 0 0 = true) ∧
    (∀ j i, R.SpriteOn 0 0 0 j i → R.fb.cell j i = false) ∧ ¬R.SpriteOn 0 0 0 0 0 ∧
    (0 < (2 : Fin 16).val ∧ 0xFFF < lastByteSprite.i.toNat + (2 : Fin 16).val - 1) :=
  ⟨.inl rfl, .inr (by decide +kernel),
    ⟨⟨0, 0, by decide, by decide, by decide, by decide, by decide +kernel⟩, by decide +kernel⟩,
    fun _ _ ⟨_, _, h, _⟩ => absurd h (Nat.not_lt_zero _), fun ⟨_, _, h, _⟩ => absurd h (Nat.not_lt_zero _),
    by decide +kernel⟩

theorem witness_DrawingTwiceRestoresThePicture :
    (0 : RegIdx) ≠ 15 ∧ (14 : RegIdx) ≠ 15 ∧
    ((1 : Fin 16).val = 0 ∨ lastByteSprite.i.toNat + (1 : Fin 16).val - 1 ≤ 0xFFF) ∧
    ((0 : Fin 16).val = 0 ∨ { R with i := 0xFFFF }.i.toNat + (0 : Fin 16).val - 1 ≤ 0xFFF) := by decide +kernel

theorem witness_KeySkipsTestOneKey :
    ((regs R [(2, 15)]).reg 2).toNat = (15 : Fin 16).val ∧ (R.reg 2).toNat = (0 : Fin 16).val ∧
    15 < ((regs R [(2, 16)]).reg 2).toNat := by decide +kernel

theorem witness_KeyWaitTakesTheLeastKey :
    (((R.setKey 9 true).setKey 3 true).keyDown 3 = true ∧
      ∀ j, j < 3 → ((R.setKey 9 true).setKey 3 true).keyDown j = false) ∧
    ((R.setKey 0 true).keyDown 0 = true ∧ ∀ j, j < 0 → (R.setKey 0 true).keyDown j = false) ∧
    ((R.setKey 15 true).keyDown 15 = true ∧ ∀ j, j < 15 → (R.setKey 15 true).keyDown j = false) ∧
    ∀ k, R.keyDown k = false := by decide +kernel

theorem witness_LdVxDtReadsTheTimer : 0 < { R with dt := 1 }.dt.toNat := by decide

theorem witness_LdBStoresTheDigits :
    (R.mem.wf R.font = true ∧ { R with i := 0xFFD }.i.toNat + 2 ≤ 0xFFF) ∧ 0xFFF < { R with i := 0xFFE }.i.toNat + 2 := by decide

theorem witness_StoreRegsDumpsAndAdvancesI :
    (R.mem.wf R.font = true ∧ { R with i := 0xFF0 }.i.toNat + (15 : RegIdx).val ≤ 0xFFF) ∧ (15 : RegIdx) ≤ 15 ∧
    0xFFF < { R with i := 0x1000 }.i.toNat + (0 : RegIdx).val := by decide

theorem witness_LoadRegsLoadsAndAdvancesI :
    { R with i := 0xFFF }.i.toNat + (0 : RegIdx).val ≤ 0xFFF ∧ (0 : RegIdx) ≤ 0 ∧ (0 : RegIdx) < 1 ∧
    0xFFF < { R with i := 0xFF1 }.i.toNat + (15 : RegIdx).val := by decide

theorem witness_DumpThenLoadRoundTrips :
    R.mem.wf R.font = true ∧ { R with i := 0xFF0 }.i.toNat + (15 : RegIdx).val ≤ 0xFFF ∧ (14 : RegIdx) < 15 := by decide

theorem witness_LoadPlacesTheImageOrResets :
    (List.replicate 3584 (0x12 : Byte)).length ≤ 3584 ∧ 3584 < (List.replicate 3585 (0x12 : Byte)).length := by
  rw [List.length_replicate, List.length_replicate]
  omega

theorem witness_HostReadsAndKeys : (4 : Fin 16) ≠ 3 := by decide

theorem witness_IdleStateStaysIdle : (at200 R 0x1200).Idle ∧ ({ bytes R 0xFFE [0x1F, 0xFE] with pc := 0xFFE } : State).Idle :=
  ⟨⟨by decide +kernel, by decide +kernel, rfl, by decide +kernel, by decide +kernel⟩,
    ⟨by decide +kernel, by decide +kernel, rfl, by decide +kernel, by decide +kernel⟩⟩

end Sys2Proof.Tests
end

section
/-! PROOFS (10_state.md). One equation for each instruction that can raise a fault: its own state when its condition
holds, the fault taken in the state before it when not. -/

namespace Sys2Proof.Machine

variable (s : State)

/-- RET: the popped frame's address plus 2, or StackUnderflow (R121, R223). -/
theorem exec_ret : exec .ret s = .next (if h : 0 < s.sp.val then
    ({ s with sp := ⟨s.sp.val - 1, by omega⟩ } : State).setPc (s.stack.get ⟨s.sp.val - 1, by omega⟩ + 2)
    else s.takeFault .stackUnderflow) := by
  by_cases h : 0 < s.sp.val
  · simp only [exec, execRet, popFrame_of_pos h, orTakeFault_ok, dif_pos h]
  · simp only [exec, execRet, popFrame_of_empty (Nat.eq_zero_of_not_pos h), orTakeFault_error, dif_neg h]

/-- CALL: pc pushed, or StackOverflow (R123, R223). -/
theorem exec_call (nnn : Addr12) : exec (.call nnn) s = .next (if h : s.sp.val < 16 then
    ({ s with stack := s.stack.set s.sp.val s.pc h, sp := ⟨s.sp.val + 1, by omega⟩ } : State).setPc (zext16 nnn)
    else s.takeFault .stackOverflow) := by
  by_cases h : s.sp.val < 16
  · simp only [exec, execCall, pushFrame_of_lt h, orTakeFault_ok, dif_pos h]
  · simp only [exec, execCall, pushFrame_of_full (show s.sp.val = 16 by omega), orTakeFault_error, dif_neg h]

/-- DRW: the drawn sprite, or AddressOutOfRange (R172, R175). -/
theorem exec_drw (x y : RegIdx) (n : Fin 16) : exec (.drw x y n) s = .next (if rangeOk s.dataAddr n.val = true then
    s.drawn (drawSprite s.fb (s.reg x) (s.reg y) (s.mem.readBytes s.font s.dataAddr n.val))
    else s.takeFault .addressOutOfRange) := by
  rcases loadBytes_cases s s.dataAddr n.val with ⟨hr, hl⟩ | ⟨hr, hl⟩ <;> simp [exec, execDrw, hl, hr]

/-- SKP and SKNP: a skip on the key in V[x], or KeyIndexOutOfRange (R191, R192, R194). -/
theorem skipOnKey_eq (x : RegIdx) (wanted : Bool) : s.orTakeFault (s.skipOnKey x wanted) =
    .next (if h : (s.reg x).toNat < 16 then s.skipIf (s.keyDown ⟨(s.reg x).toNat, h⟩ == wanted)
      else s.takeFault .keyIndexOutOfRange) := by
  by_cases h : (s.reg x).toNat < 16
  · simp [State.skipOnKey, keyIndex_of_lt h, h]
  · simp [State.skipOnKey, keyIndex_of_ge (show 15 < (s.reg x).toNat by omega), h]

/-- SKP (R191). -/
theorem exec_skp (x : RegIdx) : exec (.skp x) s = .next (if h : (s.reg x).toNat < 16 then
    s.skipIf (s.keyDown ⟨(s.reg x).toNat, h⟩ == true) else s.takeFault .keyIndexOutOfRange) := skipOnKey_eq s x true

/-- SKNP (R192). -/
theorem exec_sknp (x : RegIdx) : exec (.sknp x) s = .next (if h : (s.reg x).toNat < 16 then
    s.skipIf (s.keyDown ⟨(s.reg x).toNat, h⟩ == false) else s.takeFault .keyIndexOutOfRange) := skipOnKey_eq s x false

variable {s} in
/-- LD Vx,K when `k` is the least pressed key (R193). -/
theorem exec_ldVxK_of_some {x : RegIdx} {k : Fin 16} (h : s.lowestKey = some k) :
    exec (.ldVxK x) s = .next (s.setReg x (BitVec.ofNat 8 k.val)).advance := by simp [exec, execLdVxK, h]

variable {s} in
/-- LD Vx,K when no key is pressed (R193). -/
theorem exec_ldVxK_of_none {x : RegIdx} (h : s.lowestKey = none) : exec (.ldVxK x) s = .next s := by
  simp [exec, execLdVxK, h]

/-- LD B,Vx: three digits stored, or AddressOutOfRange (R206). -/
theorem exec_ldB (x : RegIdx) : exec (.ldB x) s = .next (if rangeOk s.dataAddr 3 = true then
    (s.setMem (s.mem.writeBytes s.font s.dataAddr (bcdDigits (s.reg x)))).advance
    else s.takeFault .addressOutOfRange) := by
  rcases storeBytes_cases s s.dataAddr (bcdDigits (s.reg x)) with ⟨hr, hl⟩ | ⟨hr, hl⟩ <;>
    rw [length_bcdDigits] at hr <;> simp [exec, execLdB, hl, hr]

/-- LD [I],Vx: V[0] to V[x] stored, or AddressOutOfRange (R207). -/
theorem exec_storeRegs (x : RegIdx) : exec (.storeRegs x) s = .next (if rangeOk s.dataAddr (x.val + 1) = true then
    ((s.setMem (s.mem.writeBytes s.font s.dataAddr (s.regsUpTo x))).bumpI x).advance
    else s.takeFault .addressOutOfRange) := by
  rcases storeBytes_cases s s.dataAddr (s.regsUpTo x) with ⟨hr, hl⟩ | ⟨hr, hl⟩ <;>
    rw [length_regsUpTo] at hr <;> simp [exec, execStoreRegs, hl, hr]

/-- LD Vx,[I]: V[0] to V[x] loaded, or AddressOutOfRange (R208). -/
theorem exec_loadRegs (x : RegIdx) : exec (.loadRegs x) s = .next (if rangeOk s.dataAddr (x.val + 1) = true then
    ((s.setRegsFrom (s.mem.readBytes s.font s.dataAddr (x.val + 1))).bumpI x).advance
    else s.takeFault .addressOutOfRange) := by
  rcases loadBytes_cases s s.dataAddr (x.val + 1) with ⟨hr, hl⟩ | ⟨hr, hl⟩ <;> simp [exec, execLoadRegs, hl, hr]

end Sys2Proof.Machine
end

section
/-! PROOFS (10_state.md). The frame: one rule for each update of the state, then the frame of every instruction (O15),
and what it says of VF (O16). -/

namespace Sys2Proof.Machine

variable {e : Effects} {s t : State}

/-! ## One rule for each update -/

theorem Keeps.refl (e : Effects) (s : State) : Keeps e s s := by constructor <;> intros <;> rfl

theorem Keeps.setPc (h : Keeps e s t) (w : Word) : Keeps e s (t.setPc w) := { h with }

theorem Keeps.advance (h : Keeps e s t) : Keeps e s t.advance := h.setPc _

theorem Keeps.skipIf (h : Keeps e s t) (c : Bool) : Keeps e s (t.skipIf c) := h.setPc _

theorem Keeps.setReg (h : Keeps e s t) {x : RegIdx} (hx : x ∈ e.regs) (b : Byte) : Keeps e s (t.setReg x b) :=
  { h with regs := fun j hj => by rw [setReg_reg, if_neg (ne_of_mem_of_not_mem hx hj).symm, h.regs j hj] }

theorem Keeps.setResultFlag (h : Keeps e s t) {x : RegIdx} (hx : x ∈ e.regs) (hf : vf ∈ e.regs) (r : Byte × Bool) :
    Keeps e s (t.setResultFlag x r) := (h.setReg hx _).setReg hf _

theorem Keeps.setRegsFrom (h : Keeps e s t) {bs : List Byte} (hr : ∀ j : RegIdx, j.val < bs.length → j ∈ e.regs) :
    Keeps e s (t.setRegsFrom bs) :=
  { h with regs := fun j hj => by rw [setRegsFrom_reg, dif_neg (fun hlt => hj (hr j hlt)), h.regs j hj] }

theorem Keeps.setI (h : Keeps e s t) (he : e.i = true) (w : Word) : Keeps e s (t.setI w) :=
  { h with i := fun h0 => by simp [he] at h0 }

theorem Keeps.bumpI (h : Keeps e s t) (he : e.i = true) (x : RegIdx) : Keeps e s (t.bumpI x) := h.setI he _

theorem Keeps.setDt (h : Keeps e s t) (he : e.dt = true) (b : Byte) : Keeps e s (t.setDt b) :=
  { h with dt := fun h0 => by simp [he] at h0 }

theorem Keeps.setSt (h : Keeps e s t) (he : e.st = true) (b : Byte) : Keeps e s (t.setSt b) :=
  { h with st := fun h0 => by simp [he] at h0 }

theorem Keeps.countRnd (h : Keeps e s t) (he : e.rnd = true) : Keeps e s t.countRnd :=
  { h with rnd := fun h0 => by simp [he] at h0 }

theorem Keeps.setFb (h : Keeps e s t) (he : e.display = true) (fb : FrameBuffer) : Keeps e s (t.setFb fb) :=
  { h with cells := fun h0 => by simp [he] at h0 }

theorem Keeps.setDraw (h : Keeps e s t) (he : e.display = true) (b : Bool) : Keeps e s (t.setDraw b) :=
  { h with draw := fun h0 => by simp [he] at h0 }

theorem Keeps.drawn (h : Keeps e s t) (hf : vf ∈ e.regs) (he : e.display = true) (b : Blit) : Keeps e s (t.drawn b) :=
  (((h.setFb he _).setReg hf _).setDraw he true).advance

theorem Keeps.setSp (h : Keeps e s t) (he : e.sp = true) (k : Fin 17) : Keeps e s { t with sp := k } :=
  { h with sp := fun h0 => by simp [he] at h0 }

theorem Keeps.setSlot (h : Keeps e s t) {k : Fin 16} (hk : k ∈ e.slots) (w : Word) :
    Keeps e s { t with stack := t.stack.set k.val w k.isLt } :=
  { h with slots := fun j hj =>
      (Vector.getElem_set_ne k.isLt _ (Fin.val_ne_of_ne (ne_of_mem_of_not_mem hk hj))).trans (h.slots j hj) }

theorem outside_of_bytes {a lo n : Nat} (he : e.bytes = some (lo, n)) : e.outside a ↔ a < lo ∨ lo + n ≤ a := by
  simp only [Effects.outside, he]

theorem Keeps.writeBytes (h : Keeps e s t) {a : Nat} {bs : List Byte} (he : e.bytes = some (a, bs.length)) :
    Keeps e s (t.setMem (t.mem.writeBytes t.font a bs)) :=
  { h with bytes := fun b hb =>
      (Memory.read_writeBytes_outside t.mem bs ((outside_of_bytes he).1 hb)).trans (h.bytes b hb) }

/-! ## Every instruction -/

theorem mem_regsTo {j x : RegIdx} : j ∈ regsTo x ↔ j ≤ x := by simp [regsTo]

/-- What an instruction answers: a state that keeps everything its effects do not name, or a fault taken. -/
theorem exec_keeps_or_faults {i : Instr} (h : exec i s = .next t) :
    Keeps (effects s i) s t ∨ ∃ f, t = s.takeFault f := by
  have hs : Keeps (effects s i) s s := .refl _ s
  cases i with
  | cls => cases h; exact .inl ((hs.setFb rfl _).setDraw rfl true).advance
  | ret =>
    rw [exec_ret] at h; cases h
    split
    · exact .inl ((hs.setSp rfl _).setPc _)
    · exact .inr ⟨_, rfl⟩
  | call nnn =>
    rw [exec_call] at h; cases h
    split
    · next hlt =>
      have hk : ⟨s.sp.val, hlt⟩ ∈ (effects s (.call nnn)).slots := by simp [effects]
      exact .inl (((hs.setSlot hk _).setSp rfl _).setPc _)
    · exact .inr ⟨_, rfl⟩
  | jp _ | jpV0 _ => cases h; exact .inl (hs.setPc _)
  | seImm _ _ | sneImm _ _ | seReg _ _ | sneReg _ _ => cases h; exact .inl (hs.skipIf _)
  | ldImm x _ | addImm x _ | ldReg x _ | orReg x _ | andReg x _ | xorReg x _ | ldVxDt x =>
    cases h; exact .inl (hs.setReg (List.mem_singleton_self x) _).advance
  | addReg _ _ | subReg _ _ | subnReg _ _ | shr _ | shl _ =>
    cases h; exact .inl (hs.setResultFlag (by simp [effects]) (by simp [effects, vf]) _).advance
  | rnd x _ => cases h; exact .inl ((hs.setReg (List.mem_singleton_self x) _).countRnd rfl).advance
  | ldI _ | ldF _ => cases h; exact .inl (hs.setI rfl _).advance
  | addI _ => cases h; exact .inl ((hs.setI rfl _).setReg (List.mem_singleton_self vf) _).advance
  | ldDtVx _ => cases h; exact .inl (hs.setDt rfl _).advance
  | ldStVx _ => cases h; exact .inl (hs.setSt rfl _).advance
  | ldVxK x =>
    cases hk : s.lowestKey with
    | some k => rw [exec_ldVxK_of_some hk] at h; cases h; exact .inl (hs.setReg (List.mem_singleton_self x) _).advance
    | none => rw [exec_ldVxK_of_none hk] at h; cases h; exact .inl hs
  | drw _ _ _ =>
    rw [exec_drw] at h; cases h
    split
    · exact .inl (hs.drawn (List.mem_singleton_self vf) rfl _)
    · exact .inr ⟨_, rfl⟩
  | skp _ =>
    rw [exec_skp] at h; cases h
    split
    · exact .inl (hs.skipIf _)
    · exact .inr ⟨_, rfl⟩
  | sknp _ =>
    rw [exec_sknp] at h; cases h
    split
    · exact .inl (hs.skipIf _)
    · exact .inr ⟨_, rfl⟩
  | ldB _ =>
    rw [exec_ldB] at h; cases h
    split
    · exact .inl (hs.writeBytes rfl).advance
    · exact .inr ⟨_, rfl⟩
  | storeRegs x =>
    rw [exec_storeRegs] at h; cases h
    split
    · exact .inl ((hs.writeBytes (by simp [effects])).bumpI rfl x).advance
    · exact .inr ⟨_, rfl⟩
  | loadRegs x =>
    rw [exec_loadRegs] at h; cases h
    split
    · refine .inl ((hs.setRegsFrom fun j hj => ?_).bumpI rfl x).advance
      rw [Memory.length_readBytes] at hj
      exact mem_regsTo.2 (Nat.le_of_lt_succ hj)
    · exact .inr ⟨_, rfl⟩

/-- An execution that ends without HALT keeps its frame. -/
theorem exec_keeps {i : Instr} (h : exec i s = .next t) (ht : t.halt = false) : Keeps (effects s i) s t := by
  rcases exec_keeps_or_faults h with hk | ⟨f, rfl⟩
  · exact hk
  · cases ht

/-- Settles O15: each instruction is a chain of updates, and each update has its frame rule. -/
theorem everyInstructionKeepsItsFrame : Obligations.EveryInstructionKeepsItsFrame :=
  fun _ _ _ _ h ht => exec_keeps h ht

/-! ## The flag register -/

theorem flagByte_eq_zero_or_one (c : Bool) : flagByte c = 0 ∨ flagByte c = 1 := by cases c <;> simp [flagByte]

/-- A flag-writing instruction ends with a flag in VF, also when VF is its result register, or faults (R21, R29). -/
theorem exec_leaves_flag {i : Instr} (hi : writesFlag i = true) (h : exec i s = .next t) :
    (∃ c, t.reg vf = flagByte c) ∨ ∃ f, t = s.takeFault f := by
  cases i with
  | addReg _ _ | subReg _ _ | subnReg _ _ | shr _ | shl _ =>
    cases h; exact .inl ⟨_, by rw [advance_reg, setResultFlag_reg, if_pos rfl]⟩
  | addI _ => cases h; exact .inl ⟨_, by rw [advance_reg, setReg_reg, if_pos rfl]⟩
  | drw _ _ _ =>
    rw [exec_drw] at h; cases h
    split
    · exact .inl ⟨_, by rw [drawn_reg, if_pos rfl]⟩
    · exact .inr ⟨_, rfl⟩
  | _ => cases hi

/-- Settles O16: the seven end with a flag in VF, and for the others it is the frame. -/
theorem flagIsWrittenBySevenInstructions : Obligations.FlagIsWrittenBySevenInstructions := by
  intro i s t _ h ht
  refine ⟨fun hi => ?_, fun _ hf => (exec_keeps h ht).regs 15 hf⟩
  rcases exec_leaves_flag hi h with ⟨c, hc⟩ | ⟨f, rfl⟩
  · exact (flagByte_eq_zero_or_one c).imp hc.trans hc.trans
  · cases ht

end Sys2Proof.Machine
end

section
/-! PROOFS (10_state.md). Who reads the keys (O18) and the picture (O19): an instruction that does not read a field does
the same, whatever is in it. -/

namespace Sys2Proof.Machine

variable {s t : State}

/-- No instruction writes a key, not even one that faults (R34). -/
theorem exec_key {i : Instr} (h : exec i s = .next t) : t.key = s.key := by
  rcases exec_keeps_or_faults h with hk | ⟨f, rfl⟩
  · exact Vector.ext fun k hlt => hk.keys ⟨k, hlt⟩
  · rfl

/-- An instruction other than CLS and DRW writes no cell, not even when it faults (R32). -/
theorem exec_fb {i : Instr} (hi : (effects s i).display = false) (h : exec i s = .next t) : t.fb = s.fb := by
  rcases exec_keeps_or_faults h with hk | ⟨f, rfl⟩
  · exact Vector.ext fun y hy => Vector.ext fun x hx => hk.cells hi ⟨y, hy⟩ ⟨x, hx⟩
  · rfl

/-- The instructions that read the keys, or read or write the picture. -/
def usesPanel : Instr → Bool
  | .cls | .drw _ _ _ | .skp _ | .sknp _ | .ldVxK _ => true
  | _ => false

/-- The state with another picture and other keys. -/
def State.withPanel (fb : FrameBuffer) (ks : Vector Bool 16) (s : State) : State := { s with fb := fb, key := ks }

/-- An instruction that does not use them does the same whatever the picture and the keys: its fault condition does not
read them, and its own state and the fault taken both carry them along. -/
theorem exec_withPanel {i : Instr} (fb : FrameBuffer) (ks : Vector Bool 16) (hi : usesPanel i = false)
    (h : exec i s = .next t) : exec i (s.withPanel fb ks) = .next (t.withPanel fb ks) := by
  symm
  cases i with
  | cls | drw _ _ _ | skp _ | sknp _ | ldVxK _ => cases hi
  | ret => rw [exec_ret] at h ⊢; cases h; exact congrArg _ (apply_dite (State.withPanel fb ks) _ _ _)
  | call _ => rw [exec_call] at h ⊢; cases h; exact congrArg _ (apply_dite (State.withPanel fb ks) _ _ _)
  | ldB _ => rw [exec_ldB] at h ⊢; cases h; exact congrArg _ (apply_ite (State.withPanel fb ks) _ _ _)
  | storeRegs _ => rw [exec_storeRegs] at h ⊢; cases h; exact congrArg _ (apply_ite (State.withPanel fb ks) _ _ _)
  | loadRegs _ => rw [exec_loadRegs] at h ⊢; cases h; exact congrArg _ (apply_ite (State.withPanel fb ks) _ _ _)
  | _ => cases h; rfl

/-- An instruction other than SKP, SKNP and LD Vx,K does the same whatever the keys. -/
theorem exec_withKeys {i : Instr} (ks : Vector Bool 16) (hi : ∀ x, i ≠ .skp x ∧ i ≠ .sknp x ∧ i ≠ .ldVxK x)
    (h : exec i s = .next t) : exec i { s with key := ks } = .next { t with key := ks } := by
  cases i with
  | skp x => exact absurd rfl (hi x).1
  | sknp x => exact absurd rfl (hi x).2.1
  | ldVxK x => exact absurd rfl (hi x).2.2
  | cls => cases h; rfl
  | drw _ _ _ =>
    rw [exec_drw] at h ⊢; cases h; symm
    exact congrArg _ (apply_ite (fun u : State => { u with key := ks }) _ _ _)
  | _ =>
    have ht : t.withPanel s.fb ks = { t with key := ks } := by rw [← exec_fb rfl h]; rfl
    exact ht ▸ exec_withPanel s.fb ks rfl h

/-- Settles O18: `exec_key`, and `exec_withKeys` for an instruction that reads no key. -/
theorem keysInfluenceOnlyKeyInstructions : Obligations.KeysInfluenceOnlyKeyInstructions :=
  fun _ _ _ ks h => ⟨exec_key h, fun hi => exec_withKeys ks hi h⟩

/-- An instruction other than CLS and DRW does the same whatever the picture, and leaves it. -/
theorem exec_withFb {i : Instr} (fb : FrameBuffer) (hi : (effects s i).display = false)
    (h : exec i s = .next t) : exec i (s.setFb fb) = .next (t.setFb fb) := by
  cases i with
  | cls | drw _ _ _ => cases hi
  | skp _ =>
    rw [exec_skp] at h ⊢; cases h; symm
    exact congrArg _ (apply_dite (State.setFb · fb) _ _ _)
  | sknp _ =>
    rw [exec_sknp] at h ⊢; cases h; symm
    exact congrArg _ (apply_dite (State.setFb · fb) _ _ _)
  | ldVxK x =>
    cases hk : s.lowestKey with
    | some k => rw [exec_ldVxK_of_some hk] at h; cases h; exact exec_ldVxK_of_some (s := s.setFb fb) hk
    | none => rw [exec_ldVxK_of_none hk] at h; cases h; exact exec_ldVxK_of_none (s := s.setFb fb) hk
  | _ =>
    have ht : t.withPanel fb s.key = t.setFb fb := by rw [← exec_key h]; rfl
    exact ht ▸ exec_withPanel fb s.key rfl h

/-- Settles O19: CLS overwrites whatever picture was there, and every other instruction but DRW carries it along. -/
theorem pictureInfluencesOnlyDrw : Obligations.PictureInfluencesOnlyDrw := by
  intro i s t fb hi h
  cases i with
  | cls => cases h; exact ⟨_, rfl, rfl⟩
  | drw x y n => exact absurd rfl (hi x y n)
  | _ => exact ⟨_, exec_withFb fb rfl h, rfl⟩

end Sys2Proof.Machine
end

section
/-! PROOFS (10_state.md). The invariant: what it takes to keep it, the steps (O22), and the outside's operations with
every reachable state (O23). -/

namespace Sys2Proof.Machine

variable {s t : State}

/-! ## Keeping the invariant -/

/-- A state with the memory, the latch and the frames of one that meets the invariant meets it when its pc is bounded. -/
theorem State.Inv.of_same_core (hs : s.Inv) (hpc : t.pc.toNat ≤ 0x10FE) (hmem : t.mem = s.mem := by rfl)
    (hfont : t.font = s.font := by rfl) (hhalt : t.halt = s.halt := by rfl) (hcause : t.cause = s.cause := by rfl)
    (hsp : t.sp = s.sp := by rfl) (hstack : t.stack = s.stack := by rfl) : t.Inv where
  mem := by rw [hmem, hfont]; exact hs.mem
  latch := by unfold State.LatchOk; rw [hhalt, hcause]; exact hs.latch
  frames := by unfold State.FramesOk; rw [hsp, hstack]; exact hs.frames
  pc := hpc

theorem Fault.code_cases (f : Fault) : f.code = 1 ∨ f.code = 2 ∨ f.code = 3 ∨ f.code = 4 := by
  cases f <;> simp [Fault.code]

theorem State.Inv.takeFault (hs : s.Inv) (f : Fault) : (s.takeFault f).Inv :=
  { hs with latch := f.code_cases }

theorem State.Inv.tick (hs : s.Inv) (r : Option Word) : (s.tick r).Inv := hs.of_same_core hs.pc

theorem State.Inv.setPc (hs : s.Inv) {w : Word} (hw : w.toNat ≤ 0x10FE) : (s.setPc w).Inv := hs.of_same_core hw

/-- A store that lies in the address space keeps the memory canonical. -/
theorem State.Inv.writeBytes (hs : s.Inv) {a : Nat} {bs : List Byte} (hr : rangeOk a bs.length = true) :
    (s.setMem (s.mem.writeBytes s.font a bs)).Inv :=
  { hs with mem := storeBytes_wf hs.mem (storeBytes_of_ok hr) }

/-- A frame pushed by a CALL that was fetched (R121, R123). -/
theorem State.Inv.push (hs : s.Inv) (hpc : s.pc.toNat ≤ 0xFFE) (h : s.sp.val < 16) :
    State.Inv { s with stack := s.stack.set s.sp.val s.pc h, sp := ⟨s.sp.val + 1, by omega⟩ } where
  mem := hs.mem
  latch := hs.latch
  frames := fun k hk => by
    by_cases hks : s.sp.val = k.val
    · simpa [Vector.get_eq_getElem, hks] using hpc
    · have hold := hs.frames k (by simp only at hk; omega)
      simpa [Vector.get_eq_getElem, Vector.getElem_set_ne, hks] using hold
  pc := hs.pc

/-- A frame popped (R121). -/
theorem State.Inv.pop (hs : s.Inv) {k : Fin 17} (hk : k.val ≤ s.sp.val) : State.Inv { s with sp := k } :=
  { hs with frames := fun j hj => hs.frames j (Nat.lt_of_lt_of_le hj hk) }

/-! ## The bounds on pc (R25) -/

theorem toNat_add_two_le {w : Word} (h : w.toNat ≤ 0xFFE) : (w + 2).toNat ≤ 0x10FE := by bv_omega

theorem toNat_skip_le {w : Word} (h : w.toNat ≤ 0xFFE) (c : Bool) : (w + if c then 4 else 2).toNat ≤ 0x10FE := by
  cases c <;> simp <;> bv_omega

theorem toNat_zext16_le (nnn : Addr12) : (zext16 nnn).toNat ≤ 0x10FE := by
  have := nnn.isLt
  simp only [zext16, BitVec.toNat_setWidth]
  omega

/-- The highest target of JP V0,nnn is 0xFFF + 0xFF (R128). -/
theorem toNat_jpV0_le (nnn : Addr12) (b : Byte) : (BitVec.ofNat 16 (nnn.toNat + b.toNat)).toNat ≤ 0x10FE := by
  have := nnn.isLt
  have := b.isLt
  simp only [BitVec.toNat_ofNat]
  omega

/-! ## Steps -/

/-- An instruction fetched from its address keeps the invariant. -/
theorem exec_keeps_inv {i : Instr} (hs : s.Inv) (hpc : s.pc.toNat ≤ 0xFFE) (h : exec i s = .next t) : t.Inv := by
  have hnext : (s.pc + 2).toNat ≤ 0x10FE := toNat_add_two_le hpc
  cases i with
  | ret =>
    rw [exec_ret] at h; cases h
    split
    · next hpos =>
      have hframe := hs.frames ⟨s.sp.val - 1, by omega⟩ (show s.sp.val - 1 < s.sp.val by omega)
      exact (hs.pop (Nat.sub_le _ _)).setPc (toNat_add_two_le hframe)
    · exact hs.takeFault _
  | call nnn =>
    rw [exec_call] at h; cases h
    split
    · next hlt => exact (hs.push hpc hlt).setPc (toNat_zext16_le nnn)
    · exact hs.takeFault _
  | jp nnn => cases h; exact hs.setPc (toNat_zext16_le nnn)
  | jpV0 nnn => cases h; exact hs.setPc (toNat_jpV0_le nnn _)
  | seImm _ _ | sneImm _ _ | seReg _ _ | sneReg _ _ => cases h; exact hs.setPc (toNat_skip_le hpc _)
  | skp _ =>
    rw [exec_skp] at h; cases h
    split
    · exact hs.setPc (toNat_skip_le hpc _)
    · exact hs.takeFault _
  | sknp _ =>
    rw [exec_sknp] at h; cases h
    split
    · exact hs.setPc (toNat_skip_le hpc _)
    · exact hs.takeFault _
  | drw _ _ _ =>
    rw [exec_drw] at h; cases h
    split
    · exact hs.of_same_core hnext
    · exact hs.takeFault _
  | ldB _ =>
    rw [exec_ldB] at h; cases h
    split
    · next hr => exact (hs.writeBytes hr).setPc hnext
    · exact hs.takeFault _
  | storeRegs x =>
    rw [exec_storeRegs] at h; cases h
    split
    · next hr =>
      rw [← length_regsUpTo s x] at hr
      exact (hs.writeBytes hr).of_same_core hnext
    · exact hs.takeFault _
  | loadRegs _ =>
    rw [exec_loadRegs] at h; cases h
    split
    · exact hs.of_same_core hnext
    · exact hs.takeFault _
  | ldVxK _ =>
    cases hk : s.lowestKey with
    | some k => rw [exec_ldVxK_of_some hk] at h; cases h; exact hs.of_same_core hnext
    | none => rw [exec_ldVxK_of_none hk] at h; cases h; exact hs
  | _ => cases h; exact hs.of_same_core hnext

theorem exec_font {i : Instr} (h : exec i s = .next t) : t.font = s.font := by
  rcases exec_keeps_or_faults h with hk | ⟨f, rfl⟩
  · exact hk.font
  · rfl

/-- The end of a step is the instruction's state, ticked or not. -/
theorem endStep_cases {o : Host.Outcome State Fault Refusal} (h : endStep o = .next t) :
    ∃ u, o = .next u ∧ (t = u ∨ t = u.tick none) := by
  cases o with
  | next u =>
    refine ⟨u, rfl, ?_⟩
    cases hu : u.halt <;> simp [hu] at h <;> simp [h]
  | fault _ | refused _ => cases h

/-- A step of a state with the invariant leads to one with it. -/
theorem step_keeps_inv (hs : s.Inv) (h : step s = .next t) : t.Inv := by
  rcases step_cases s with ⟨-, hst⟩ | ⟨-, -, hst⟩ | ⟨w, -, hpc, -, -, hst⟩ | ⟨w, i, -, hpc, -, -, hst⟩ <;>
    rw [hst] at h
  · cases h; exact hs.of_same_core hs.pc
  · cases h; exact hs.takeFault _
  · cases h; exact (hs.setPc (toNat_add_two_le hpc)).tick _
  · obtain ⟨u, hu, rfl | rfl⟩ := endStep_cases h
    · exact exec_keeps_inv hs hpc hu
    · exact (exec_keeps_inv hs hpc hu).tick none

theorem step_font (h : step s = .next t) : t.font = s.font := by
  rcases step_cases s with ⟨-, hst⟩ | ⟨-, -, hst⟩ | ⟨w, -, -, -, -, hst⟩ | ⟨w, i, -, -, -, -, hst⟩ <;> rw [hst] at h
  · cases h; rfl
  · cases h; rfl
  · cases h; rfl
  · obtain ⟨u, hu, rfl | rfl⟩ := endStep_cases h
    · exact exec_font hu
    · exact (tick_font u none).trans (exec_font hu)

/-- Settles O22: by the four things a step can do (`step_cases`), each of which keeps the invariant. -/
theorem stepKeepsInvariant : Obligations.StepKeepsInvariant := ⟨fun _ _ => step_keeps_inv, fun _ _ => step_font⟩

/-! ## The outside's operations -/

theorem resetWith_inv (f : Font) : (State.resetWith f).Inv where
  mem := Memory.wf_nil
  latch := rfl
  frames := fun k hk => absurd hk (Nat.not_lt_zero _)
  pc := by simp

theorem doReset_inv (s : State) : s.doReset.Inv := (resetWith_inv s.font).of_same_core (resetWith_inv s.font).pc

/-- What a load leaves: the reset state, when it fails, or the reset state with an image that fits at 0x200 (R263,
R264). -/
theorem doLoad_cases (s : State) (src : ProgramSource) :
    (s.doLoad src).1 = s.doReset ∨ ∃ bytes, bytes.length ≤ 3584 ∧
      (s.doLoad src).1 = s.doReset.setMem (s.doReset.mem.writeBytes s.font Config.progBase bytes) := by
  cases src with
  | image bytes =>
    cases h : imageFits bytes with
    | true => exact .inr ⟨bytes, (imageFits_iff bytes).1 h, by simp [State.doLoad, h]⟩
    | false => exact .inl (by simp [State.doLoad, h])
  | unreadable => exact .inl rfl

theorem doLoad_inv (s : State) (src : ProgramSource) : (s.doLoad src).1.Inv := by
  rcases doLoad_cases s src with h | ⟨bytes, hlen, h⟩ <;> rw [h]
  · exact doReset_inv s
  · have hr : rangeOk Config.progBase bytes.length = true := by
      rw [rangeOk_iff, Config.progBase, Config.memSize]; omega
    exact (doReset_inv s).writeBytes hr

theorem doLoad_font (s : State) (src : ProgramSource) : (s.doLoad src).1.font = s.font := by
  rcases doLoad_cases s src with h | ⟨bytes, -, h⟩ <;> rw [h] <;> rfl

theorem external_keeps_inv (op : ExternalOp) (hs : s.Inv) : (s.external op).1.Inv := by
  cases op with
  | reset => exact doReset_inv s
  | load src => exact doLoad_inv s src
  | setKey _ _ | takeDrawFlag => exact hs.of_same_core hs.pc
  | readPixel _ _ => exact hs

theorem external_font (s : State) (op : ExternalOp) : (s.external op).1.font = s.font := by
  cases op with
  | load src => exact doLoad_font s src
  | reset | setKey _ _ | takeDrawFlag | readPixel _ _ => rfl

/-- By induction on the events since the reset. -/
theorem Reachable.inv (h : Reachable s) : s.Inv := by
  induction h with
  | reset f => exact resetWith_inv f
  | event e _ he ih =>
    cases e with
    | step => exact step_keeps_inv ih he
    | external op => cases he; exact external_keeps_inv op ih

/-- Settles O23: each operation by its case, and the reachable states by induction on their events. -/
theorem reachableStatesMeetInvariant : Obligations.ReachableStatesMeetInvariant :=
  ⟨fun s op => ⟨external_keeps_inv op, external_font s op⟩, fun _ => Reachable.inv⟩

end Sys2Proof.Machine
end

section
/-! PROOFS (10_state.md). The values after reset (O20) and the order of the cells (O47). -/

namespace Sys2Proof.Machine

theorem resetWith_reg (f : Font) (x : RegIdx) : (State.resetWith f).reg x = 0 := by
  simp [State.reg, Vector.get_eq_getElem]

theorem resetWith_frame (f : Font) (k : Fin 16) : (State.resetWith f).stack.get k = 0 := by
  simp [Vector.get_eq_getElem]

theorem resetWith_keyDown (f : Font) (k : Fin 16) : (State.resetWith f).keyDown k = false := by
  simp [State.keyDown, Vector.get_eq_getElem]

/-- Settles O20: the fields that are one value by the reset's own equations, the others by one lemma each. -/
theorem resetValues : Obligations.ResetValues := by
  refine ⟨⟨defaultFont, rfl⟩, fun f => ⟨resetWith_reg f, rfl, rfl, rfl, resetWith_frame f, rfl, rfl, ?_, ?_, ?_,
    resetWith_keyDown f, rfl, rfl, rfl⟩⟩
  · exact fun k => resetByte_of_lt f k.isLt
  · exact fun a ha _ => resetByte_of_ge f ha
  · exact cell_blank

/-- The row-major list is the flattened frame buffer. -/
theorem rowMajor_eq_flatten (fb : FrameBuffer) : fb.rowMajor = fb.flatten.toList := by
  change (fb.toArray.toList.map fun row => row.toArray.toList).flatten = _
  simp [Vector.flatten, Function.comp_def]

/-- Settles O47: entry `64 y + x` of the flattened rows is entry `x` of row `y`. -/
theorem cellsAreRowMajor : Obligations.CellsAreRowMajor := by
  intro fb y x
  have hy : (y.val * 64 + x.val) / 64 = y.val := by omega
  have hx : (y.val * 64 + x.val) % 64 = x.val := by omega
  have hlen : fb.flatten.toList.length = 2048 := Vector.length_toList
  have hlt : y.val * 64 + x.val < fb.flatten.toList.length := by omega
  rw [rowMajor_eq_flatten, List.getElem?_eq_getElem hlt, Vector.getElem_toList, Vector.getElem_flatten]
  simp only [hy, hx]
  exact ⟨rfl, hlen⟩

end Sys2Proof.Machine
end

section
/-! PROOFS (20_memory.md). The canonical form of memory is one form for each contents (O24), byte accesses (O25), the
fetch (O8), and a store seen by the next fetch (O26). -/

namespace Sys2Proof.Machine

variable {f : Font} {s : State}

/-! ## The canonical form (log 15) -/

theorem Memory.read_cons_same (k : Nat) (b : Byte) (m : Memory) : Memory.read f ((k, b) :: m) k = b := if_pos rfl

theorem Memory.read_cons_of_ne {k a : Nat} (h : k ≠ a) (b : Byte) (m : Memory) :
    Memory.read f ((k, b) :: m) a = m.read f a := if_neg h

theorem Memory.wfFrom_cons_iff {lo k : Nat} {b : Byte} {m : Memory} : Memory.wfFrom f lo ((k, b) :: m) = true ↔
    lo ≤ k ∧ k ≤ 0xFFF ∧ b ≠ resetByte f k ∧ Memory.wfFrom f (k + 1) m = true := by
  simp only [Memory.wfFrom, Bool.and_eq_true, decide_eq_true_eq, and_assoc, Config.memSize, Nat.lt_succ_iff]

/-- Two memories read the same at every address of the 4096-byte space. -/
def Memory.ReadAlike (f : Font) (m n : Memory) : Prop := ∀ a, a ≤ 0xFFF → m.read f a = n.read f a

theorem Memory.ReadAlike.symm {m n : Memory} (h : Memory.ReadAlike f m n) : Memory.ReadAlike f n m :=
  fun a ha => (h a ha).symm

/-- The first listed byte of a canonical memory differs from its reset contents, so a canonical memory that lists only
higher addresses does not read alike. -/
theorem Memory.not_readAlike_of_head_lt {lo lo' k : Nat} {b : Byte} {m n : Memory}
    (hm : Memory.wfFrom f lo ((k, b) :: m) = true) (hn : Memory.wfFrom f lo' n = true) (hk : k < lo') :
    ¬Memory.ReadAlike f ((k, b) :: m) n := by
  intro h
  obtain ⟨-, hks, hb, -⟩ := Memory.wfFrom_cons_iff.1 hm
  apply hb
  calc b = Memory.read f ((k, b) :: m) k := (Memory.read_cons_same k b m).symm
    _ = n.read f k := h k hks
    _ = resetByte f k := Memory.read_of_lt_wfFrom hn hk

/-- Behind a common first address both memories read as their reset contents there, and elsewhere as their tails. -/
theorem Memory.ReadAlike.tail {k : Nat} {b c : Byte} {m n : Memory}
    (h : Memory.ReadAlike f ((k, b) :: m) ((k, c) :: n)) (hm : Memory.wfFrom f (k + 1) m = true)
    (hn : Memory.wfFrom f (k + 1) n = true) : Memory.ReadAlike f m n := by
  intro a ha
  by_cases hka : k = a
  · subst hka
    rw [Memory.read_of_lt_wfFrom hm (Nat.lt_succ_self k), Memory.read_of_lt_wfFrom hn (Nat.lt_succ_self k)]
  · simpa only [Memory.read_cons_of_ne hka] using h a ha

/-- Canonical memories that read alike list the same cells: the lower of two first addresses would tell them apart. -/
theorem Memory.eq_of_readAlike {lo : Nat} {m n : Memory} (hm : Memory.wfFrom f lo m = true)
    (hn : Memory.wfFrom f lo n = true) (h : Memory.ReadAlike f m n) : m = n := by
  induction m generalizing n lo with
  | nil =>
    cases n with
    | nil => rfl
    | cons cell n =>
      obtain ⟨j, c⟩ := cell
      exact absurd h.symm (Memory.not_readAlike_of_head_lt (lo' := j + 1) hn rfl (Nat.lt_succ_self j))
  | cons cell m ih =>
    obtain ⟨k, b⟩ := cell
    cases n with
    | nil => exact absurd h (Memory.not_readAlike_of_head_lt (lo' := k + 1) hm rfl (Nat.lt_succ_self k))
    | cons cell' n =>
      obtain ⟨j, c⟩ := cell'
      obtain ⟨-, hks, hb, htm⟩ := Memory.wfFrom_cons_iff.1 hm
      obtain ⟨-, hjs, hc, htn⟩ := Memory.wfFrom_cons_iff.1 hn
      rcases Nat.lt_trichotomy k j with hkj | rfl | hjk
      · exact absurd h (Memory.not_readAlike_of_head_lt hm
          (Memory.wfFrom_cons_iff.2 ⟨Nat.le_refl j, hjs, hc, htn⟩) hkj)
      · have hbc : b = c := by simpa only [Memory.read_cons_same] using h k hks
        rw [hbc, ih htm htn (h.tail htm htn)]
      · exact absurd h.symm (Memory.not_readAlike_of_head_lt hn
          (Memory.wfFrom_cons_iff.2 ⟨Nat.le_refl k, hks, hb, htm⟩) hjk)

/-- Settles O24: by induction on the lists of cells, from the lower bound 0. -/
theorem canonicalMemoriesAreEqualData : Obligations.CanonicalMemoriesAreEqualData :=
  fun _ _ _ hm hn h => Memory.eq_of_readAlike hm hn h

/-! ## Byte accesses and the fetch -/

/-- The k-th byte of a store in the address space, read back. -/
theorem byteAt_writeBytes {a k : Nat} {bs : List Byte} (hwf : s.mem.wf s.font = true) (hr : rangeOk a bs.length = true)
    (hk : k < bs.length) : (s.setMem (s.mem.writeBytes s.font a bs)).byteAt (a + k) = bs[k] := by
  rcases (rangeOk_iff a bs.length).1 hr with h0 | hle
  · omega
  · exact Memory.read_writeBytes_inside bs hle hwf hk

theorem rangeOk_one {a : Nat} : rangeOk a 1 = decide (a ≤ 0xFFF) := by simp [rangeOk, Config.addrMax]

/-- Settles O25: the one byte is a list of length 1, and its range check is the check of its address. -/
theorem byteAccesses : Obligations.ByteAccesses := by
  refine fun s a => ⟨memRead_of_le, memRead_of_gt, fun b ha hwf => ?_, fun b ha => ?_⟩
  · have hr : rangeOk a [b].length = true := rangeOk_one.trans (decide_eq_true ha)
    refine ⟨_, storeBytes_of_ok hr, ?_, (Keeps.refl _ s).writeBytes rfl, rfl⟩
    exact byteAt_writeBytes (k := 0) hwf hr Nat.one_pos
  · exact storeBytes_of_bad (rangeOk_one.trans (decide_eq_false (Nat.not_le.2 ha)))

/-- Settles O8: `fetchWord_of_le` and `fetchWord_of_gt` are its two cases. -/
theorem fetchIsBigEndian : Obligations.FetchIsBigEndian :=
  fun _ => ⟨fun h => ⟨_, fetchWord_of_le (Nat.le_of_succ_le_succ h), wordOfBytes_toNat _ _⟩,
    fun h => fetchWord_of_gt (Nat.lt_of_succ_lt_succ h)⟩

/-! ## A store seen by the next fetch -/

/-- LD [I],Vx leaves V[k] in the byte at I + k (R207). -/
theorem byteAt_storedRegs {x k : RegIdx} (hwf : s.mem.wf s.font = true)
    (hr : rangeOk s.dataAddr (x.val + 1) = true) (hk : k ≤ x) :
    (s.setMem (s.mem.writeBytes s.font s.dataAddr (s.regsUpTo x))).byteAt (s.dataAddr + k.val) = s.reg k := by
  rw [← length_regsUpTo s x] at hr
  have hlt : k.val < (s.regsUpTo x).length := by rw [length_regsUpTo]; exact Nat.lt_succ_of_le hk
  rw [byteAt_writeBytes hwf hr hlt, getElem_regsUpTo]

/-- Settles O26: the next fetch is at I, where the store put V[0] and V[1]. -/
theorem storeIsSeenByNextFetch : Obligations.StoreIsSeenByNextFetch := by
  intro s x hwf hx hi hlast
  have hr : rangeOk s.dataAddr (x.val + 1) = true := (rangeOk_dataAddr s _).2 (.inr hlast)
  have h0 := byteAt_storedRegs (k := 0) hwf hr (Fin.zero_le x)
  have h1 := byteAt_storedRegs (k := 1) hwf hr hx
  refine ⟨_, (exec_storeRegs s x).trans (congrArg _ (if_pos hr)), ?_⟩
  have hle : s.i.toNat ≤ 0xFFE := by omega
  rw [fetchWord_of_le] <;> simp only [advance_pc, bumpI_pc, setMem_pc, ← hi]
  · exact congrArg Except.ok (congrArg₂ wordOfBytes h0 h1)
  · exact hle

end Sys2Proof.Machine
end

section
/-! PROOFS (40_control_flow.md). RET and CALL (O27, O29), the jumps (O28, O32) and the skips (O30, O31): the pc each
leaves as a number, and its frame as a chain of updates. -/

namespace Sys2Proof.Machine

variable {s : State}

/-! ## The pc on natural numbers -/

/-- A jump target keeps its value (R122). -/
theorem zext16_toNat (nnn : Addr12) : (zext16 nnn).toNat = nnn.toNat :=
  BitVec.toNat_setWidth_of_le (by decide)

/-- The unreduced target of JP V0,nnn fits in 16 bits (R128). -/
theorem jpV0_toNat (nnn : Addr12) (b : Byte) : (BitVec.ofNat 16 (nnn.toNat + b.toNat)).toNat = nnn.toNat + b.toNat := by
  have hnnn := nnn.isLt
  have hb := b.isLt
  rw [BitVec.toNat_ofNat, Nat.mod_eq_of_lt (by omega)]

/-- A skip whose condition is `p` advances pc by 4 when `p` holds, else by 2 (R24). -/
theorem skipIf_pc_toNat {c : Bool} {p : Prop} [Decidable p] (h : c = true ↔ p) :
    (s.skipIf c).pc.toNat = (s.pc.toNat + if p then 4 else 2) % 65536 := by
  rw [skipIf_pc, BitVec.toNat_add, apply_ite BitVec.toNat]
  simp only [h]
  rfl

/-! ## The call stack -/

/-- Settles O27: `exec_ret`, with slot `k` as the popped one when SP is `k + 1`. -/
theorem retPopsOrUnderflows : Obligations.RetPopsOrUnderflows := by
  constructor
  · intro s k hk
    have hpos : 0 < s.sp.val := by omega
    have hslot : (⟨s.sp.val - 1, by omega⟩ : Fin 16) = k := Fin.ext (Nat.sub_eq_of_eq_add hk)
    refine ⟨_, (exec_ret s).trans (congrArg _ (dif_pos hpos)), ?_, ?_, ((Keeps.refl _ s).setSp rfl _).setPc _⟩
    · rw [setPc_pc, hslot, BitVec.toNat_add]
      rfl
    · exact congrArg Fin.val hslot
  · intro s hk
    exact (exec_ret s).trans (congrArg _ (dif_neg (by omega)))

/-- Settles O29: `exec_call`, with slot SP written and no other. -/
theorem callPushesOrOverflows : Obligations.CallPushesOrOverflows := by
  constructor
  · intro s nnn k hk
    have hlt : s.sp.val < 16 := by omega
    obtain rfl : ⟨s.sp.val, hlt⟩ = k := Fin.ext hk
    have hs : Keeps { sp := true, slots := [⟨s.sp.val, hlt⟩] } s s := .refl _ s
    exact ⟨_, (exec_call s nnn).trans (congrArg _ (dif_pos hlt)), Vector.getElem_set_self hlt, rfl, zext16_toNat nnn,
      ((hs.setSlot (List.mem_singleton_self _) _).setSp rfl _).setPc _⟩
  · intro s nnn hk
    exact (exec_call s nnn).trans (congrArg _ (dif_neg (by omega)))

/-! ## Jumps -/

/-- Settles O28: the target zero extended, and pc is the only field written. -/
theorem jpJumps : Obligations.JpJumps := fun s nnn => ⟨_, rfl, zext16_toNat nnn, (Keeps.refl _ s).setPc _⟩

/-- Settles O32: the sum does not wrap, and pc is the only field written. -/
theorem jpV0AddsV0 : Obligations.JpV0AddsV0 := fun s nnn =>
  ⟨_, rfl, jpV0_toNat nnn (s.reg 0), toNat_jpV0_le nnn (s.reg 0), (Keeps.refl _ s).setPc _⟩

/-! ## Skips -/

/-- Settles O30: bytes are equal when their values are. -/
theorem skipsOnImmediate : Obligations.SkipsOnImmediate := by
  intro s x kk
  have heq : s.reg x = kk ↔ (s.reg x).toNat = kk.toNat := BitVec.toNat_inj.symm
  refine ⟨⟨_, rfl, (Keeps.refl _ s).skipIf _, skipIf_pc_toNat ?_⟩,
    ⟨_, rfl, (Keeps.refl _ s).skipIf _, skipIf_pc_toNat ?_⟩⟩
  · rw [decide_eq_true_eq, heq]
  · rw [decide_eq_true_eq, Ne, heq]

/-- Settles O31: as for an immediate, and a register equals itself. -/
theorem skipsOnRegister : Obligations.SkipsOnRegister := by
  intro s x y
  have heq : s.reg x = s.reg y ↔ x = y ∨ (s.reg x).toNat = (s.reg y).toNat :=
    ⟨fun h => .inr (congrArg _ h), fun h => h.elim (congrArg _) BitVec.eq_of_toNat_eq⟩
  refine ⟨⟨_, rfl, (Keeps.refl _ s).skipIf _, skipIf_pc_toNat ?_⟩,
    ⟨_, rfl, (Keeps.refl _ s).skipIf _, skipIf_pc_toNat ?_⟩⟩
  · rw [decide_eq_true_eq, heq]
  · rw [decide_eq_true_eq, Ne, heq, not_or]

end Sys2Proof.Machine
end

section
/-! PROOFS (41_immediate_random.md). LD Vx,kk (O34), ADD Vx,kk (O35), LD I,nnn (O36) and RND (O37): the register each
leaves and pc + 2 as a number, its frame as a chain of updates, and who draws a random byte. -/

namespace Sys2Proof.Machine

variable {s t : State}

/-! ## A register written, then pc + 2 -/

/-- The default advance on natural numbers (R112). -/
theorem advance_pc_toNat (s : State) : s.advance.pc.toNat = (s.pc.toNat + 2) % 65536 := BitVec.toNat_add s.pc 2

theorem setReg_reg_same (s : State) (x : RegIdx) (b : Byte) : (s.setReg x b).reg x = b := by
  rw [setReg_reg, if_pos rfl]

/-- All of an instruction that writes one register and advances: the register's value, pc, and the frame. -/
theorem setReg_advance (s : State) (x : RegIdx) (b : Byte) :
    (s.setReg x b).advance.reg x = b ∧ (s.setReg x b).advance.pc.toNat = (s.pc.toNat + 2) % 65536 ∧
      Keeps { regs := [x] } s (s.setReg x b).advance := by
  refine ⟨?_, ?_, ((Keeps.refl _ s).setReg (List.mem_singleton_self x) b).advance⟩
  · rw [advance_reg, setReg_reg_same]
  · rw [advance_pc_toNat, setReg_pc]

/-! ## The immediates -/

/-- Settles O34: `setReg_advance` with `kk` as the byte. -/
theorem ldImmLoadsTheByte : Obligations.LdImmLoadsTheByte := fun s x kk => ⟨_, rfl, setReg_advance s x kk⟩

/-- Settles O35: `setReg_advance` with the sum of two bytes, which is mod 256. -/
theorem addImmWrapsWithoutFlag : Obligations.AddImmWrapsWithoutFlag := by
  intro s x kk
  obtain ⟨hreg, hpc, hkeeps⟩ := setReg_advance s x (s.reg x + kk)
  exact ⟨_, rfl, (congrArg BitVec.toNat hreg).trans (BitVec.toNat_add _ _), hpc, hkeeps⟩

/-- Settles O36: the address zero extended, and I is the only field written beside pc. -/
theorem ldILoadsTheAddress : Obligations.LdILoadsTheAddress := fun s nnn =>
  ⟨_, rfl, zext16_toNat nnn, advance_pc_toNat _, ((Keeps.refl _ s).setI rfl _).advance⟩

/-! ## The random byte -/

/-- RND leaves the masked byte in its register (R144). -/
theorem rndWith_reg (rnd : Byte) (x : RegIdx) (kk : Byte) (s : State) : (rndWith rnd x kk s).reg x = rnd &&& kk := by
  rw [rndWith, advance_reg, countRnd_reg, setReg_reg_same]

theorem rndWith_keeps (rnd : Byte) (x : RegIdx) (kk : Byte) (s : State) :
    Keeps { regs := [x], rnd := true } s (rndWith rnd x kk s) :=
  (((Keeps.refl _ s).setReg (List.mem_singleton_self x) _).countRnd rfl).advance

/-- RND is the only instruction whose effects name the count of random bytes (log 2). -/
theorem effects_rnd_eq_false {i : Instr} (hi : ∀ x kk, i ≠ .rnd x kk) : (effects s i).rnd = false := by
  cases i with
  | rnd x kk => exact absurd rfl (hi x kk)
  | _ => rfl

/-- An instruction other than RND draws no random byte, not even when it faults (R144; log 2). -/
theorem exec_rndCount {i : Instr} (hi : ∀ x kk, i ≠ .rnd x kk) (h : exec i s = .next t) :
    t.rndCount = s.rndCount := by
  rcases exec_keeps_or_faults h with hk | ⟨f, rfl⟩
  · exact hk.rnd (effects_rnd_eq_false hi)
  · exact takeFault_rndCount s f

/-- Settles O37: the masked byte, read bit by bit and under the mask FF, and `exec_rndCount` for every other
instruction. -/
theorem rndMasksAFreeByte : Obligations.RndMasksAFreeByte := by
  refine ⟨fun s x kk => ?_, fun i s t => exec_rndCount⟩
  have hreg := rndWith_reg (Config.rndByte s.rndCount) x kk s
  refine ⟨_, rfl, hreg, rfl, fun b hb => ?_, fun hkk => ?_, advance_pc_toNat _, rndWith_keeps _ x kk s⟩
  · rw [hreg, BitVec.getLsbD_and, hb, Bool.and_false]
  · rw [hreg, hkk]
    exact byte_and_ones _

end Sys2Proof.Machine
end

section
/-! PROOFS (42_alu.md). LD Vx,Vy (O38), the logic (O39), ADD Vx,Vy (O40), the subtractions (O41) and the shifts (O42): the
result and the flag each leaves as numbers, pc + 2, and its frame. -/

namespace Sys2Proof.Machine

/-! ## A result without a flag -/

/-- Settles O38: `setReg_advance` with V[y] as the byte. -/
theorem ldRegCopies : Obligations.LdRegCopies := fun s x y => ⟨_, rfl, setReg_advance s x (s.reg y)⟩

/-- `setReg_advance` for a result known bit by bit. -/
theorem setReg_advance_getLsbD (s : State) (x : RegIdx) {b : Byte} {p : Nat → Bool} (hb : ∀ k, b.getLsbD k = p k) :
    (∀ k, ((s.setReg x b).advance.reg x).getLsbD k = p k) ∧
      (s.setReg x b).advance.pc.toNat = (s.pc.toNat + 2) % 65536 ∧
      Keeps { regs := [x] } s (s.setReg x b).advance := by
  obtain ⟨hreg, hpc, hkeeps⟩ := setReg_advance s x b
  exact ⟨fun k => hreg.symm ▸ hb k, hpc, hkeeps⟩

/-- Settles O39: the bits of the library's or, and, exclusive or. -/
theorem logicWorksBitByBit : Obligations.LogicWorksBitByBit := fun s x _ =>
  ⟨⟨_, rfl, setReg_advance_getLsbD s x fun _ => BitVec.getLsbD_or⟩,
    ⟨_, rfl, setReg_advance_getLsbD s x fun _ => BitVec.getLsbD_and⟩,
    ⟨_, rfl, setReg_advance_getLsbD s x fun _ => BitVec.getLsbD_xor⟩⟩

/-! ## A result and its flag -/

/-- All of an instruction that writes a result with its flag and advances: the result's value `n`, which VF as the result
register does not keep, the flag's value `f`, pc, and the frame (R29; log 8). -/
theorem setResultFlag_advance (s : State) (x : RegIdx) {r : Byte × Bool} {n f : Nat} (hn : r.1.toNat = n)
    (hf : (flagByte r.2).toNat = f) :
    (x ≠ vf → ((s.setResultFlag x r).advance.reg x).toNat = n) ∧
      ((s.setResultFlag x r).advance.reg vf).toNat = f ∧
      (s.setResultFlag x r).advance.pc.toNat = (s.pc.toNat + 2) % 65536 ∧
      Keeps { regs := [x, vf] } s (s.setResultFlag x r).advance := by
  refine ⟨fun hx => ?_, ?_, ?_, ((Keeps.refl _ s).setResultFlag (by simp) (by simp) r).advance⟩
  · rw [advance_reg, setResultFlag_reg, if_neg hx, if_pos rfl, hn]
  · rw [advance_reg, setResultFlag_reg, if_pos rfl, hf]
  · rw [advance_pc_toNat, setResultFlag_pc]

/-- A flag that holds a comparison (R155, R156). -/
theorem flagByte_decide_toNat (p : Prop) [Decidable p] : (flagByte (decide p)).toNat = if p then 1 else 0 := by
  simp only [flagByte_toNat, decide_eq_true_eq]

/-- A flag that holds the bit shifted out (R157, R159). -/
theorem flagByte_getLsbD_toNat (a : Byte) (k : Nat) : (flagByte (a.getLsbD k)).toNat = a.toNat / 2 ^ k % 2 := by
  have hflag (c : Bool) : (flagByte c).toNat = c.toNat := by cases c <;> rfl
  exact (hflag _).trans (Nat.toNat_testBit _ _)

/-- Settles O40: the sum reduced as a byte, and the carry as a comparison. -/
theorem addRegSetsCarry : Obligations.AddRegSetsCarry := fun s x _ =>
  ⟨_, rfl, setResultFlag_advance s x (BitVec.toNat_ofNat _ _) (flagByte_decide_toNat _)⟩

/-- Settles O41: the difference reduced as a byte, and the flag as a strict comparison. -/
theorem subtractionsSetStrictFlag : Obligations.SubtractionsSetStrictFlag := fun s x _ =>
  ⟨⟨_, rfl, setResultFlag_advance s x (BitVec.toNat_ofNat _ _) (flagByte_decide_toNat _)⟩,
    ⟨_, rfl, setResultFlag_advance s x (BitVec.toNat_ofNat _ _) (flagByte_decide_toNat _)⟩⟩

/-- The shift right by one on natural numbers (R157). -/
theorem shrFlag_toNat (a : Byte) : (shrFlag a).1.toNat = a.toNat / 2 :=
  (BitVec.toNat_ushiftRight a 1).trans (Nat.shiftRight_eq_div_pow _ 1)

/-- The shift left by one on natural numbers (R159). -/
theorem shlFlag_toNat (a : Byte) : (shlFlag a).1.toNat = 2 * a.toNat % 256 := by
  rw [shlFlag, BitVec.toNat_shiftLeft, Nat.shiftLeft_eq, Nat.mul_comm]

/-- SHR's flag is the old bit 0 (R157). -/
theorem shrFlag_flag_toNat (a : Byte) : (flagByte (shrFlag a).2).toNat = a.toNat % 2 := by
  rw [shrFlag, flagByte_getLsbD_toNat, pow_zero, Nat.div_one]

/-- SHL's flag is the old bit 7, the highest of a byte (R159). -/
theorem shlFlag_flag_toNat (a : Byte) : (flagByte (shlFlag a).2).toNat = a.toNat / 128 := by
  have ha := a.isLt
  rw [shlFlag, flagByte_getLsbD_toNat]
  omega

/-- Settles O42: both shifts and their flags on natural numbers. -/
theorem shiftsMoveOneBitToFlag : Obligations.ShiftsMoveOneBitToFlag := fun s x =>
  ⟨⟨_, rfl, setResultFlag_advance s x (shrFlag_toNat _) (shrFlag_flag_toNat _)⟩,
    ⟨_, rfl, setResultFlag_advance s x (shlFlag_toNat _) (shlFlag_flag_toNat _)⟩⟩

end Sys2Proof.Machine
end

section
/-! PROOFS (43_display.md). CLS (O44) and DRW (O45): the cells each leaves, VF after a collision, pc + 2 as a number, and
its frame as a chain of updates. -/

namespace Sys2Proof.Machine

variable {s : State} {vx vy : Byte} {n : Nat} {j : Fin 32} {i : Fin 64}

/-- Settles O44: the blank buffer's cells, and the frame buffer and DRAW are the only fields written beside pc. -/
theorem clsTurnsEveryPixelOff : Obligations.ClsTurnsEveryPixelOff := fun s =>
  ⟨_, rfl, cell_blank, rfl, advance_pc_toNat _, (((Keeps.refl _ s).setFb rfl _).setDraw rfl true).advance⟩

/-- A cell under a 1 bit of the sprite is toggled (R177). -/
theorem cell_drawSprite_of_spriteOn (hn : n ≤ 32) (hon : s.SpriteOn vx vy n j i) :
    (drawSprite s.fb vx vy (s.mem.readBytes s.font s.dataAddr n)).fb.cell j i = !s.fb.cell j i := by
  rw [Bool.eq_iff_iff, cell_drawSprite s vx vy hn, iff_true_right hon, Bool.not_eq_true, Bool.not_eq_true']

/-- A cell under no 1 bit of the sprite is unchanged (R177). -/
theorem cell_drawSprite_of_not_spriteOn (hn : n ≤ 32) (hoff : ¬s.SpriteOn vx vy n j i) :
    (drawSprite s.fb vx vy (s.mem.readBytes s.font s.dataAddr n)).fb.cell j i = s.fb.cell j i := by
  rw [Bool.eq_iff_iff, cell_drawSprite s vx vy hn, iff_false_right hoff, not_not]

/-- No collision when every cell under a 1 bit of the sprite is off (R176). -/
theorem coll_drawSprite_eq_false (hn : n ≤ 32) (h : ∀ j i, s.SpriteOn vx vy n j i → s.fb.cell j i = false) :
    (drawSprite s.fb vx vy (s.mem.readBytes s.font s.dataAddr n)).coll = false := by
  rw [← Bool.not_eq_true, coll_drawSprite s vx vy hn]
  rintro ⟨j, i, hon, hcell⟩
  exact Bool.false_ne_true ((h j i hon).symm.trans hcell)

/-- DRW leaves its collision in VF (R172). -/
theorem drawn_reg_vf {t : Blit} {c : Bool} (h : t.coll = c) : (s.drawn t).reg vf = flagByte c := by
  rw [drawn_reg, if_pos rfl, h]

/-- Settles O45: `exec_drw`, the drawn sprite when its bytes lie in memory and the fault when one does not. -/
theorem drwXorsTheSpriteWithWrap : Obligations.DrwXorsTheSpriteWithWrap := by
  constructor
  · intro s x y n hrange
    have hr : rangeOk s.dataAddr n.val = true := (rangeOk_dataAddr s n.val).2 hrange
    have hn : n.val ≤ 32 := by omega
    exact ⟨_, (exec_drw s x y n).trans (congrArg _ (if_pos hr)),
      fun _ _ => cell_drawSprite_of_spriteOn hn,
      fun _ _ => cell_drawSprite_of_not_spriteOn hn,
      fun hhit => drawn_reg_vf ((coll_drawSprite s _ _ hn).2 hhit),
      fun hmiss => drawn_reg_vf (coll_drawSprite_eq_false hn hmiss),
      rfl, advance_pc_toNat _, (Keeps.refl _ s).drawn (List.mem_singleton_self vf) rfl _⟩
  · intro s x y n hpos hgt
    have hr : ¬rangeOk s.dataAddr n.val = true := by
      rw [rangeOk_dataAddr]
      omega
    exact (exec_drw s x y n).trans (congrArg _ (if_neg hr))

end Sys2Proof.Machine
end

section
/-! PROOFS (44_keypad.md). SKP and SKNP (O48) and LD Vx,K (O49): the key each finds, the pc it leaves as a number, and its
frame as a chain of updates. -/

namespace Sys2Proof.Machine

/-- All of a key skip whose register holds the index of the key `k` (R191, R192). -/
theorem skipOnKey_of_key {s : State} {x : RegIdx} {k : Fin 16} (hk : (s.reg x).toNat = k.val) (wanted : Bool) :
    ∃ t, s.orTakeFault (s.skipOnKey x wanted) = .next t ∧ Keeps {} s t ∧
      t.pc.toNat = (s.pc.toNat + if s.keyDown k = wanted then 4 else 2) % 65536 := by
  have hlt : (s.reg x).toNat < 16 := hk ▸ k.isLt
  obtain rfl : ⟨(s.reg x).toNat, hlt⟩ = k := Fin.ext hk
  exact ⟨_, (skipOnKey_eq s x wanted).trans (congrArg _ (dif_pos hlt)), (Keeps.refl _ s).skipIf _,
    skipIf_pc_toNat beq_iff_eq⟩

/-- A key skip whose register holds more than 15 takes KeyIndexOutOfRange, whatever state of the key is wanted (R194). -/
theorem takesFault_skipOnKey_of_gt {s : State} {x : RegIdx} (h : 15 < (s.reg x).toNat) (wanted : Bool) :
    TakesFault (s.orTakeFault (s.skipOnKey x wanted)) s 4 :=
  (skipOnKey_eq s x wanted).trans (congrArg _ (dif_neg (by omega)))

/-- Settles O48: SKP and SKNP are the key skip that wants a pressed and an unpressed key. -/
theorem keySkipsTestOneKey : Obligations.KeySkipsTestOneKey :=
  ⟨fun _ _ _ hk => ⟨skipOnKey_of_key hk true, skipOnKey_of_key hk false⟩,
    fun _ _ h => ⟨takesFault_skipOnKey_of_gt h true, takesFault_skipOnKey_of_gt h false⟩⟩

/-- Settles O49: the scan finds the least pressed key, whose index fits in a byte, or none. -/
theorem keyWaitTakesTheLeastKey : Obligations.KeyWaitTakesTheLeastKey := by
  constructor
  · intro s x k hdown hleast
    have hscan : s.lowestKey = some k := lowestKey_eq_some.2 ⟨hdown, hleast⟩
    have hbyte : (BitVec.ofNat 8 k.val).toNat = k.val := by
      rw [BitVec.toNat_ofNat, Nat.mod_eq_of_lt (by omega)]
    obtain ⟨hreg, hpc, hkeeps⟩ := setReg_advance s x (BitVec.ofNat 8 k.val)
    exact ⟨_, exec_ldVxK_of_some hscan, (congrArg BitVec.toNat hreg).trans hbyte, hpc, hkeeps⟩
  · intro s x hnone
    exact exec_ldVxK_of_none (lowestKey_eq_none.2 hnone)

end Sys2Proof.Machine
end

section
/-! PROOFS (45_timer_index_memory.md). The timer loads (O50, O51), ADD I,Vx (O52), LD F,Vx (O53) and the three
instructions on bytes at I (O54, O55, O56): the fields each leaves as numbers, and its frame as a chain of updates. -/

namespace Sys2Proof.Machine

/-! ## Timers -/

/-- Settles O50: `setReg_advance` with DT as the byte, which the tick of the step counts down. -/
theorem ldVxDtReadsTheTimer : Obligations.LdVxDtReadsTheTimer := by
  intro s x
  obtain ⟨hreg, hpc, hkeeps⟩ := setReg_advance s x s.dt
  refine ⟨_, rfl, hreg, hpc, hkeeps, fun hpos => ?_⟩
  rw [tick_reg, hreg, tick_dt, countDown_toNat, advance_dt, setReg_dt]
  omega

/-- Settles O51: a timer is the only field written beside pc, and `countDown_toNat` says what its tick leaves. -/
theorem timerLoadsCopyTheRegister : Obligations.TimerLoadsCopyTheRegister := fun s x =>
  ⟨⟨_, rfl, rfl, advance_pc_toNat _, ((Keeps.refl _ s).setDt rfl _).advance, countDown_toNat (s.reg x)⟩,
    ⟨_, rfl, rfl, advance_pc_toNat _, ((Keeps.refl _ s).setSt rfl _).advance, countDown_toNat (s.reg x),
      decide_eq_true_iff⟩⟩

/-! ## The index register -/

/-- Settles O52: both sums are unreduced, and the flag is written last, so it stays. -/
theorem addISetsAddressOverflow : Obligations.AddISetsAddressOverflow := by
  intro s x
  refine ⟨_, rfl, BitVec.toNat_ofNat _ _, ?_, advance_pc_toNat _,
    (((Keeps.refl _ s).setI rfl _).setReg (List.mem_singleton_self vf) _).advance⟩
  exact (congrArg BitVec.toNat (setReg_reg_same _ vf _)).trans (flagByte_decide_toNat _)

/-- A glyph's address fits in 16 bits, whatever the byte (R205). -/
theorem glyphAddr_toNat (b : Byte) : (glyphAddr b).toNat = b.toNat * 5 := by
  have hb := b.isLt
  rw [glyphAddr, BitVec.toNat_ofNat]
  omega

/-- Settles O53: the glyph's address unreduced, and I is the only field written beside pc. -/
theorem ldFPointsAtTheGlyph : Obligations.LdFPointsAtTheGlyph := fun s x =>
  ⟨_, rfl, glyphAddr_toNat (s.reg x), advance_pc_toNat _, ((Keeps.refl _ s).setI rfl _).advance⟩

/-! ## Bytes at I -/

/-- The k + 1 bytes at I lie in memory when the last of them does (R200). -/
theorem rangeOk_of_last_le {s : State} {k : Nat} (h : s.i.toNat + k ≤ 0xFFF) : rangeOk s.dataAddr (k + 1) = true :=
  (rangeOk_dataAddr s (k + 1)).2 (.inr h)

section Range

variable {s t : State} {o : Host.Outcome State Fault Refusal} {k : Nat}
  (ho : o = .next (if rangeOk s.dataAddr (k + 1) = true then t else s.takeFault .addressOutOfRange))

include ho

/-- The instruction goes on when its last byte, at I + k, lies in memory (R200). -/
theorem eq_next_of_last_le (h : s.i.toNat + k ≤ 0xFFF) : o = .next t :=
  ho.trans (congrArg _ (if_pos (rangeOk_of_last_le h)))

/-- The instruction takes AddressOutOfRange when its last byte, at I + k, lies outside memory (R78). -/
theorem takesFault_of_last_gt (h : 0xFFF < s.i.toNat + k) : TakesFault o s 3 := by
  refine ho.trans (congrArg _ (if_neg ?_))
  rw [rangeOk_dataAddr]
  omega

end Range

/-- The three digits on natural numbers: each fits in a byte (R206). -/
theorem bcdDigits_toNat (b : Byte) :
    (bcdDigits b)[0].toNat = b.toNat / 100 ∧ (bcdDigits b)[1].toNat = b.toNat / 10 % 10 ∧
      (bcdDigits b)[2].toNat = b.toNat % 10 := by
  have hb := b.isLt
  have hdigit {d : Nat} (hd : d < 256) : (BitVec.ofNat 8 d).toNat = d :=
    (BitVec.toNat_ofNat d 8).trans (Nat.mod_eq_of_lt hd)
  exact ⟨hdigit (by omega), hdigit (by omega), hdigit (by omega)⟩

/-- Settles O54: `exec_ldB`, with each stored digit read back. -/
theorem ldBStoresTheDigits : Obligations.LdBStoresTheDigits := by
  constructor
  · intro s x hwf hle
    have hbyte {k : Nat} (hk : k < 3) :=
      byteAt_writeBytes (bs := bcdDigits (s.reg x)) hwf (rangeOk_of_last_le hle) hk
    obtain ⟨hhundreds, htens, hones⟩ := bcdDigits_toNat (s.reg x)
    exact ⟨_, eq_next_of_last_le (exec_ldB s x) hle,
      (congrArg BitVec.toNat (hbyte (show 0 < 3 by decide))).trans hhundreds,
      (congrArg BitVec.toNat (hbyte (show 1 < 3 by decide))).trans htens,
      (congrArg BitVec.toNat (hbyte (show 2 < 3 by decide))).trans hones,
      advance_pc_toNat _, ((Keeps.refl _ s).writeBytes rfl).advance⟩
  · exact fun s x => takesFault_of_last_gt (exec_ldB s x)

/-- Settles O55: `exec_storeRegs`, with each stored register read back. -/
theorem storeRegsDumpsAndAdvancesI : Obligations.StoreRegsDumpsAndAdvancesI := by
  constructor
  · intro s x hwf hle
    exact ⟨_, eq_next_of_last_le (exec_storeRegs s x) hle, fun _ => byteAt_storedRegs hwf (rangeOk_of_last_le hle),
      BitVec.toNat_ofNat _ _, advance_pc_toNat _,
      (((Keeps.refl _ s).writeBytes (by rw [length_regsUpTo])).bumpI rfl x).advance⟩
  · exact fun s x => takesFault_of_last_gt (exec_storeRegs s x)

/-- The registers after `n` bytes from `a` upward are loaded: register k takes the byte at a + k (R208). -/
theorem setRegsFrom_readBytes_reg (s : State) (a n : Nat) (k : RegIdx) :
    (s.setRegsFrom (s.mem.readBytes s.font a n)).reg k = if k.val < n then s.byteAt (a + k.val) else s.reg k := by
  simp only [setRegsFrom_reg, Memory.length_readBytes, Memory.getElem_readBytes, dite_eq_ite, State.byteAt]

/-- Settles O56: `exec_loadRegs`, with the loaded and the higher registers read. -/
theorem loadRegsLoadsAndAdvancesI : Obligations.LoadRegsLoadsAndAdvancesI := by
  constructor
  · intro s x hle
    have hreg := setRegsFrom_readBytes_reg s s.dataAddr (x.val + 1)
    refine ⟨_, eq_next_of_last_le (exec_loadRegs s x) hle,
      fun k hk => (hreg k).trans (if_pos (Nat.lt_succ_of_le hk)),
      fun k hk => (hreg k).trans (if_neg (Nat.not_lt.2 hk)), BitVec.toNat_ofNat _ _, advance_pc_toNat _,
      (((Keeps.refl _ s).setRegsFrom fun j hj => ?_).bumpI rfl x).advance⟩
    rw [Memory.length_readBytes] at hj
    exact mem_regsTo.2 (Nat.le_of_lt_succ hj)
  · exact fun s x => takesFault_of_last_gt (exec_loadRegs s x)

end Sys2Proof.Machine
end

section
/-! PROOFS (60_exceptions.md). Which instruction raises which fault (R221), what a step of a running core can do in those
terms, and from it the tick (O9), the report (O10), precise faults (O12) and their causes (O13); then the halted core
(O14). -/

namespace Sys2Proof.Machine

variable {s t : State} {i : Instr} {f : Fault}

/-! ## The faults of an instruction -/

/-- The table of R221: the instruction raises the fault in this state. -/
inductive State.Raises (s : State) : Instr → Fault → Prop
  | call {nnn : Addr12} (h : s.sp.val = 16) : s.Raises (.call nnn) .stackOverflow
  | ret (h : s.sp.val = 0) : s.Raises .ret .stackUnderflow
  | drw {x y : RegIdx} {n : Fin 16} (hn : 0 < n.val) (h : 0xFFF < s.i.toNat + n.val - 1) :
      s.Raises (.drw x y n) .addressOutOfRange
  | ldB {x : RegIdx} (h : 0xFFF < s.i.toNat + 2) : s.Raises (.ldB x) .addressOutOfRange
  | storeRegs {x : RegIdx} (h : 0xFFF < s.i.toNat + x.val) : s.Raises (.storeRegs x) .addressOutOfRange
  | loadRegs {x : RegIdx} (h : 0xFFF < s.i.toNat + x.val) : s.Raises (.loadRegs x) .addressOutOfRange
  | skp {x : RegIdx} (h : 15 < (s.reg x).toNat) : s.Raises (.skp x) .keyIndexOutOfRange
  | sknp {x : RegIdx} (h : 15 < (s.reg x).toNat) : s.Raises (.sknp x) .keyIndexOutOfRange

/-- An instruction that raises a fault takes it: the fault clause of the instruction's own statement. -/
theorem State.Raises.exec_eq (h : s.Raises i f) : exec i s = .next (s.takeFault f) := by
  cases h with
  | call h => exact callPushesOrOverflows.2 s _ h
  | ret h => exact retPopsOrUnderflows.2 s h
  | drw hn h => exact drwXorsTheSpriteWithWrap.2 s _ _ _ hn h
  | ldB h => exact ldBStoresTheDigits.2 s _ h
  | storeRegs h => exact storeRegsDumpsAndAdvancesI.2 s _ h
  | loadRegs h => exact loadRegsLoadsAndAdvancesI.2 s _ h
  | skp h => exact (keySkipsTestOneKey.2 s _ h).1
  | sknp h => exact (keySkipsTestOneKey.2 s _ h).2

/-- An instruction that goes on, not halted, under the condition `c` and takes a fault otherwise ends halted only when `c`
fails. -/
theorem not_of_halt {c : Prop} [Decidable c] {u : c → State} {o : Host.Outcome State Fault Refusal}
    (ho : o = .next (if hc : c then u hc else s.takeFault f)) (hu : ∀ hc, (u hc).halt = false) (h : o = .next t)
    (ht : t.halt = true) : ¬c := by
  intro hc
  rw [ho, dif_pos hc] at h
  cases h
  cases (hu hc).symm.trans ht

/-- An instruction that ends halted raises a fault, which `State.Raises.exec_eq` says it took. -/
theorem exec_halt_raises (hs : s.halt = false) (h : exec i s = .next t) (ht : t.halt = true) : ∃ f, s.Raises i f := by
  have hrange {n : Nat} (hn : ¬rangeOk s.dataAddr n = true) : 0 < n ∧ 0xFFF < s.i.toNat + n - 1 := by
    rw [rangeOk_dataAddr] at hn
    omega
  cases i with
  | call _ =>
    have hc := not_of_halt (exec_call s _) (fun _ => hs) h ht
    exact ⟨_, .call (by omega)⟩
  | ret =>
    have hc := not_of_halt (exec_ret s) (fun _ => hs) h ht
    exact ⟨_, .ret (by omega)⟩
  | drw _ _ _ =>
    obtain ⟨hn, hlast⟩ := hrange (not_of_halt (exec_drw s _ _ _) (fun _ => hs) h ht)
    exact ⟨_, .drw hn hlast⟩
  | ldB _ => exact ⟨_, .ldB (hrange (not_of_halt (exec_ldB s _) (fun _ => hs) h ht)).2⟩
  | storeRegs _ => exact ⟨_, .storeRegs (hrange (not_of_halt (exec_storeRegs s _) (fun _ => hs) h ht)).2⟩
  | loadRegs _ => exact ⟨_, .loadRegs (hrange (not_of_halt (exec_loadRegs s _) (fun _ => hs) h ht)).2⟩
  | skp _ => exact ⟨_, .skp (Nat.le_of_not_lt (not_of_halt (exec_skp s _) (fun _ => hs) h ht))⟩
  | sknp _ => exact ⟨_, .sknp (Nat.le_of_not_lt (not_of_halt (exec_sknp s _) (fun _ => hs) h ht))⟩
  | ldVxK _ =>
    cases hk : s.lowestKey with
    | some k => rw [exec_ldVxK_of_some hk] at h; cases h; cases hs.symm.trans ht
    | none => rw [exec_ldVxK_of_none hk] at h; cases h; cases hs.symm.trans ht
  | _ => cases h; cases hs.symm.trans ht

/-! ## The step of a running core -/

/-- The next step raises the fault: its fetch does (R111, R228), or the instruction it fetches. -/
inductive State.StepRaises (s : State) : Fault → Prop
  | fetch (h : 0xFFF ≤ s.pc.toNat) : s.StepRaises .addressOutOfRange
  | instr {i : Instr} {f : Fault} (hi : s.NextIs i) (h : s.Raises i f) : s.StepRaises f

theorem step_of_nextIs (hs : s.halt = false) (hi : s.NextIs i) : step s = endStep (exec i s) :=
  step_of_decoded hs (fetchWord_of_le hi.1) hi.2

theorem State.StepRaises.step_eq (h : s.StepRaises f) (hs : s.halt = false) : step s = .next (s.takeFault f) := by
  cases h with
  | fetch h => exact step_of_fetch_fault hs h
  | instr hi h => rw [step_of_nextIs hs hi, h.exec_eq]; rfl

/-- Every instruction answers a next state. -/
theorem exec_next (i : Instr) (s : State) : ∃ t, exec i s = .next t := by
  cases i with
  | ret | call _ | drw _ _ _ | skp _ | sknp _ | ldB _ | storeRegs _ | loadRegs _ => exact orTakeFault_next s _
  | _ => exact ⟨_, rfl⟩

/-- Everything a step from HALT = 0 can do: take a fault it raises, run an unknown opcode, or run an instruction that
does not halt and then tick (R110). -/
theorem step_running_cases (hs : s.halt = false) :
    (∃ f, s.StepRaises f ∧ step s = .next (s.takeFault f)) ∨
    (s.pc.toNat ≤ 0xFFE ∧ decodeWord (s.wordAt s.pc.toNat) = none ∧
      step s = .next (s.unknownStep (s.wordAt s.pc.toNat))) ∨
    (∃ i t, s.NextIs i ∧ exec i s = .next t ∧ t.halt = false ∧ step s = .next (t.tick none)) := by
  rcases Nat.lt_or_ge 0xFFE s.pc.toNat with hgt | hle
  · exact .inl ⟨_, .fetch hgt, step_of_fetch_fault hs hgt⟩
  cases hd : decodeWord (s.wordAt s.pc.toNat) with
  | none => exact .inr (.inl ⟨hle, rfl, step_of_unknown hs (fetchWord_of_le hle) hd⟩)
  | some i =>
    have hi : s.NextIs i := ⟨hle, hd⟩
    obtain ⟨t, h⟩ := exec_next i s
    cases ht : t.halt with
    | true =>
      obtain ⟨f, hf⟩ := exec_halt_raises hs h ht
      exact .inl ⟨f, .instr hi hf, (State.StepRaises.instr hi hf).step_eq hs⟩
    | false => exact .inr (.inr ⟨i, t, hi, h, ht, by rw [step_of_nextIs hs hi, h, endStep_next, ht]; rfl⟩)

/-! ## The tick and the report -/

/-- What the tick does, on natural numbers (R240, R241). -/
theorem tick_spec (t : State) (r : Option Word) :
    (t.tick r).dt.toNat = t.dt.toNat - 1 ∧ (t.tick r).st.toNat = t.st.toNat - 1 ∧
      ((t.tick r).out.soundActive = true ↔ 0 < t.st.toNat) ∧
      t.tick r = { t with dt := (t.tick r).dt, st := (t.tick r).st, out := (t.tick r).out } :=
  ⟨countDown_toNat t.dt, countDown_toNat t.st, decide_eq_true_iff, rfl⟩

/-- Settles O9: a step that completes ends with a tick, after an unknown opcode or after an instruction. -/
theorem tickFollowsTheInstruction : Obligations.TickFollowsTheInstruction := by
  intro s u hs h hu
  rcases step_running_cases hs with ⟨f, -, hst⟩ | ⟨hle, hd, hst⟩ | ⟨i, t, hi, ht, -, hst⟩ <;>
    rw [hst] at h <;> cases h
  · cases hu
  · exact ⟨_, .inr ⟨hle, hd, rfl⟩, tick_spec _ _⟩
  · exact ⟨t, .inl ⟨i, hi, ht⟩, tick_spec t none⟩

/-- The tick writes the timers and the outputs. -/
theorem Keeps.tick {e : Effects} (h : Keeps e s t) (hd : e.dt = true) (hst : e.st = true) (r : Option Word) :
    Keeps e s { t.tick r with out := t.out } :=
  { h with dt := by simp [hd], st := by simp [hst] }

/-- A step that makes a report started with HALT = 0 at an unknown word: a halted core, a fault and an instruction leave
none. -/
theorem unknown_of_report (h : step s = .next t) (hr : t.out.report.isSome = true) :
    s.halt = false ∧ s.pc.toNat ≤ 0xFFE ∧ decodeWord (s.wordAt s.pc.toNat) = none := by
  cases hs : s.halt with
  | true => rw [step_of_halt hs] at h; cases h; cases hr
  | false =>
    rcases step_running_cases hs with ⟨f, -, hst⟩ | ⟨hle, hd, -⟩ | ⟨i, u, -, -, -, hst⟩
    · rw [hst] at h; cases h; cases hr
    · exact ⟨rfl, hle, hd⟩
    · rw [hst] at h; cases h; cases hr

/-- Settles O10: the unknown opcode's step is pc + 2 and the tick with the report, and no other step reports. -/
theorem unknownOpcodeIsReportedNotFatal : Obligations.UnknownOpcodeIsReportedNotFatal := by
  refine ⟨fun s hs hle hd => ?_, fun s t => unknown_of_report⟩
  obtain ⟨hdt, hst, hsound, -⟩ := tick_spec s.advance (some (s.wordAt s.pc.toNat))
  have hpc : s.advance.pc.toNat = s.pc.toNat + 2 := by
    rw [advance_pc_toNat]
    omega
  exact ⟨_, step_of_unknown hs (fetchWord_of_le hle) hd, rfl, rfl, hpc, hdt, hst, hsound,
    (Keeps.refl _ s).advance.tick rfl rfl _⟩

/-! ## Faults -/

/-- A step from HALT = 0 to HALT = 1 takes a fault it raises. -/
theorem step_halt_raises (hs : s.halt = false) (h : step s = .next t) (ht : t.halt = true) :
    ∃ f, s.StepRaises f ∧ t = s.takeFault f := by
  rcases step_running_cases hs with ⟨f, hf, hst⟩ | ⟨-, -, hst⟩ | ⟨i, u, -, -, hu, hst⟩ <;>
    rw [hst] at h <;> cases h
  · exact ⟨f, hf, rfl⟩
  · cases hs.symm.trans ht
  · cases hu.symm.trans ht

/-- Settles O12: the end is the fault taken in the state before the step. -/
theorem faultsArePrecise : Obligations.FaultsArePrecise := by
  intro s t hs h ht
  obtain ⟨f, -, rfl⟩ := step_halt_raises hs h ht
  exact ⟨h, rfl, rfl, rfl, rfl, rfl⟩

theorem Fault.code_injective : Function.Injective Fault.code := by
  intro f g h
  cases f <;> cases g <;> revert h <;> decide

/-- A step from HALT = 0 takes exactly the faults it raises. -/
theorem step_takesFault_iff (hs : s.halt = false) (f : Fault) : TakesFault (step s) s f.code ↔ s.StepRaises f := by
  refine ⟨fun h => ?_, fun h => h.step_eq hs⟩
  obtain ⟨g, hg, heq⟩ := step_halt_raises hs h rfl
  exact Fault.code_injective (congrArg State.cause heq) ▸ hg

theorem stepRaises_stackOverflow_iff :
    s.StepRaises .stackOverflow ↔ ∃ nnn, s.NextIs (.call nnn) ∧ s.sp.val = 16 := by
  constructor
  · intro h
    cases h with
    | instr hi h => cases h with | call h => exact ⟨_, hi, h⟩
  · rintro ⟨nnn, hi, h⟩
    exact .instr hi (.call h)

theorem stepRaises_stackUnderflow_iff : s.StepRaises .stackUnderflow ↔ s.NextIs .ret ∧ s.sp.val = 0 := by
  constructor
  · intro h
    cases h with
    | instr hi h => cases h with | ret h => exact ⟨hi, h⟩
  · rintro ⟨hi, h⟩
    exact .instr hi (.ret h)

theorem stepRaises_addressOutOfRange_iff : s.StepRaises .addressOutOfRange ↔
    0xFFF ≤ s.pc.toNat ∨
    (∃ x y n, s.NextIs (.drw x y n) ∧ 0 < n.val ∧ 0xFFF < s.i.toNat + n.val - 1) ∨
    (∃ x, s.NextIs (.ldB x) ∧ 0xFFF < s.i.toNat + 2) ∨
    (∃ x, (s.NextIs (.storeRegs x) ∨ s.NextIs (.loadRegs x)) ∧ 0xFFF < s.i.toNat + x.val) := by
  constructor
  · intro h
    cases h with
    | fetch h => exact .inl h
    | instr hi h =>
      cases h with
      | drw hn h => exact .inr (.inl ⟨_, _, _, hi, hn, h⟩)
      | ldB h => exact .inr (.inr (.inl ⟨_, hi, h⟩))
      | storeRegs h => exact .inr (.inr (.inr ⟨_, .inl hi, h⟩))
      | loadRegs h => exact .inr (.inr (.inr ⟨_, .inr hi, h⟩))
  · rintro (h | ⟨x, y, n, hi, hn, h⟩ | ⟨x, hi, h⟩ | ⟨x, hi | hi, h⟩)
    · exact .fetch h
    · exact .instr hi (.drw hn h)
    · exact .instr hi (.ldB h)
    · exact .instr hi (.storeRegs h)
    · exact .instr hi (.loadRegs h)

theorem stepRaises_keyIndexOutOfRange_iff :
    s.StepRaises .keyIndexOutOfRange ↔ ∃ x, (s.NextIs (.skp x) ∨ s.NextIs (.sknp x)) ∧ 15 < (s.reg x).toNat := by
  constructor
  · intro h
    cases h with
    | instr hi h =>
      cases h with
      | skp h => exact ⟨_, .inl hi, h⟩
      | sknp h => exact ⟨_, .inr hi, h⟩
  · rintro ⟨x, hi | hi, h⟩
    · exact .instr hi (.skp h)
    · exact .instr hi (.sknp h)

/-- A step that ends with HALT = 0 leaves CAUSE alone. -/
theorem step_cause (h : step s = .next t) (hs : s.halt = false) (ht : t.halt = false) : t.cause = s.cause := by
  rcases step_running_cases hs with ⟨f, -, hst⟩ | ⟨-, -, hst⟩ | ⟨i, u, -, hu, huh, hst⟩ <;>
    rw [hst] at h <;> cases h
  · cases ht
  · rfl
  · exact (exec_keeps hu huh).cause

/-- Settles O13: `step_takesFault_iff` for each of the four faults, which are all there are. -/
theorem faultsHaveExactlyTheirCauses : Obligations.FaultsHaveExactlyTheirCauses := by
  intro s hs
  refine ⟨(step_takesFault_iff hs .stackOverflow).trans stepRaises_stackOverflow_iff,
    (step_takesFault_iff hs .stackUnderflow).trans stepRaises_stackUnderflow_iff,
    (step_takesFault_iff hs .addressOutOfRange).trans stepRaises_addressOutOfRange_iff,
    (step_takesFault_iff hs .keyIndexOutOfRange).trans stepRaises_keyIndexOutOfRange_iff,
    fun t h ht => ?_, fun t h => step_cause h hs⟩
  obtain ⟨f, -, rfl⟩ := step_halt_raises hs h ht
  exact f.code_cases

/-! ## The halted core -/

/-- A load ends the halt and clears CAUSE, also when it fails (R263, R264). -/
theorem doLoad_latch (s : State) (src : ProgramSource) : (s.doLoad src).1.halt = false ∧ (s.doLoad src).1.cause = 0 := by
  rcases doLoad_cases s src with h | ⟨bytes, -, h⟩ <;> rw [h] <;> exact ⟨rfl, rfl⟩

/-- Of the outside's operations exactly reset and load end a halt, and the others leave CAUSE alone. -/
theorem external_latch (hs : s.halt = true) (op : ExternalOp) :
    ((s.external op).1.halt = false ↔ op = .reset ∨ ∃ src, op = .load src) ∧
      (op ≠ .reset → (∀ src, op ≠ .load src) → (s.external op).1.cause = s.cause) := by
  cases op with
  | reset => exact ⟨iff_of_true rfl (.inl rfl), fun h => absurd rfl h⟩
  | load src => exact ⟨iff_of_true (doLoad_latch s src).1 (.inr ⟨src, rfl⟩), fun _ h => absurd rfl (h src)⟩
  | setKey _ _ | takeDrawFlag | readPixel _ _ =>
    exact ⟨iff_of_false (fun h => by cases hs.symm.trans h) (by simp), fun _ _ => rfl⟩

/-- Settles O14: the halted step, and each operation of the outside by its case. -/
theorem haltedCoreIsFrozen : Obligations.HaltedCoreIsFrozen := fun s hs =>
  ⟨step_of_halt hs, fun _ _ => rfl, rfl, rfl, fun k p => (setKey_keyDown s k p k).trans (if_pos rfl), external_latch hs,
    rfl, fun src => (doLoad_latch s src).2⟩

end Sys2Proof.Machine
end

section
/-! PROOFS (70_reset_and_hazards.md). Reset and load (O58), the outside's reads and keys (O59) and the idle state (O60). -/

namespace Sys2Proof.Machine

variable {s : State}

/-! ## Load -/

theorem doLoad_of_le {bytes : List Byte} (h : bytes.length ≤ 3584) : s.doLoad (.image bytes) =
    (s.doReset.setMem (s.doReset.mem.writeBytes s.font Config.progBase bytes), .done) :=
  if_pos ((imageFits_iff bytes).2 h)

theorem doLoad_of_gt {bytes : List Byte} (h : 3584 < bytes.length) :
    s.doLoad (.image bytes) = (s.doReset, .loadError .capacity) :=
  if_neg fun hfits => Nat.not_le.2 h ((imageFits_iff bytes).1 hfits)

theorem rangeOk_progBase {n : Nat} (h : n ≤ 3584) : rangeOk Config.progBase n = true := by
  rw [rangeOk_iff, Config.progBase, Config.memSize]
  omega

/-- Settles O58: a load that fits is one store at 0x200 into the reset state, whose memory is canonical, so its bytes
read back (`byteAt_writeBytes`) and the others are the reset's. -/
theorem loadPlacesTheImageOrResets : Obligations.LoadPlacesTheImageOrResets := by
  refine fun s bytes => ⟨rfl, fun hlen => ?_, doLoad_of_gt, rfl⟩
  rw [show s.external (.load (.image bytes)) = _ from doLoad_of_le hlen]
  exact ⟨rfl, fun k hk => byteAt_writeBytes (doReset_inv s).mem (rangeOk_progBase hlen) hk,
    fun a ha => Memory.read_writeBytes_outside _ bytes ha, rfl⟩

/-! ## Reads of the outside, and keys -/

/-- Settles O59: each reply and change is the operation's equation, and a key slot reads back by `setKey_keyDown`. -/
theorem hostReadsAndKeys : Obligations.HostReadsAndKeys := fun s =>
  ⟨rfl, rfl, fun _ _ => rfl, fun k p => ⟨(setKey_keyDown s k p k).trans (if_pos rfl),
    fun j hj => (setKey_keyDown s k p j).trans (if_neg hj), rfl⟩⟩

/-! ## The idle state -/

/-- A pc that can be fetched from is its own low 12 bits, so a jump can name it (R272). -/
theorem zext16_setWidth {w : Word} (h : w.toNat ≤ 0xFFE) : zext16 (w.setWidth 12) = w := by
  apply BitVec.eq_of_toNat_eq
  rw [zext16_toNat, BitVec.toNat_setWidth]
  omega

/-- With both timers 0 a tick without a report only makes the outputs quiet (R240, R241). -/
theorem tick_of_timers_zero (hd : s.dt = 0) (hst : s.st = 0) : s.tick none = s.setOut Outputs.quiet := by
  simp [State.tick, State.setOut, Outputs.quiet, countDown, hd, hst]

/-- In the idle state the next instruction is a jump to its own address. -/
theorem State.Idle.nextIs (h : s.Idle) : s.NextIs (.jp (s.pc.setWidth 12)) := by
  obtain ⟨hpc, hw⟩ := fetchWord_ok h.jump
  refine ⟨hpc, ?_⟩
  rw [State.wordAt, ← hw]
  exact Laws.RoundTrip.jp _

/-- An idle step executes the jump, which writes pc to itself, and ticks two timers that are 0. -/
theorem State.Idle.step_eq (h : s.Idle) : step s = .next (s.setOut Outputs.quiet) := by
  have hpc : s.setPc (zext16 (s.pc.setWidth 12)) = s := by
    rw [zext16_setWidth h.fetchable]
    rfl
  have hjump : exec (.jp (s.pc.setWidth 12)) s = .next s := congrArg Host.Outcome.next hpc
  rw [step_of_nextIs h.running h.nextIs, hjump, endStep_next, h.running, ← tick_of_timers_zero h.delay h.sound]
  rfl

/-- The idle state does not depend on the outputs. -/
theorem State.Idle.setOut (h : s.Idle) (o : Outputs) : (s.setOut o).Idle := { h with }

/-- Settles O60: an idle step only makes the outputs quiet, which keeps the state idle. -/
theorem idleStateStaysIdle : Obligations.IdleStateStaysIdle :=
  fun _ h => ⟨_, h.step_eq, rfl, rfl, rfl, h.setOut _⟩

end Sys2Proof.Machine
end

section
/-! PROOFS (30_encoding.md). The encoder against the decoder (O1), the decoder against the opcode map, row by row (O2, O3,
O4), the unknown words (O5) and the sample words (O6). -/

namespace Sys2Proof

open Machine

variable {w : Word} {r : OpcodeRow}

/-! ## Every instruction -/

theorem Instr.wellFormed_eq_true (i : Instr) : i.wellFormed = true := by
  cases i with
  | cls | ret => rfl
  | jp nnn | call nnn | ldI nnn | jpV0 nnn => exact Laws.wellFormed_nnn nnn
  | seImm x kk | sneImm x kk | ldImm x kk | addImm x kk | rnd x kk => exact Laws.wellFormed_xkk x kk
  | seReg x y | sneReg x y | ldReg x y | orReg x y | andReg x y | xorReg x y | addReg x y | subReg x y
  | subnReg x y => exact Laws.wellFormed_xy x y
  | drw x y n => exact Laws.wellFormed_xyn x y n
  | _ => exact Laws.wellFormed_x _

/-- The decoder reads back every canonical word (R104). -/
theorem decodeWord_encode (i : Instr) : decodeWord (encode i) = some i := by
  cases i with
  | cls => exact Laws.RoundTrip.cls
  | ret => exact Laws.RoundTrip.ret
  | jp _ => exact Laws.RoundTrip.jp _
  | call _ => exact Laws.RoundTrip.call _
  | seImm _ _ => exact Laws.RoundTrip.seImm _ _
  | sneImm _ _ => exact Laws.RoundTrip.sneImm _ _
  | seReg _ _ => exact Laws.RoundTrip.seReg _ _
  | ldImm _ _ => exact Laws.RoundTrip.ldImm _ _
  | addImm _ _ => exact Laws.RoundTrip.addImm _ _
  | ldReg _ _ => exact Laws.RoundTrip.ldReg _ _
  | orReg _ _ => exact Laws.RoundTrip.orReg _ _
  | andReg _ _ => exact Laws.RoundTrip.andReg _ _
  | xorReg _ _ => exact Laws.RoundTrip.xorReg _ _
  | addReg _ _ => exact Laws.RoundTrip.addReg _ _
  | subReg _ _ => exact Laws.RoundTrip.subReg _ _
  | shr _ => exact Laws.RoundTrip.shr _
  | subnReg _ _ => exact Laws.RoundTrip.subnReg _ _
  | shl _ => exact Laws.RoundTrip.shl _
  | sneReg _ _ => exact Laws.RoundTrip.sneReg _ _
  | ldI _ => exact Laws.RoundTrip.ldI _
  | jpV0 _ => exact Laws.RoundTrip.jpV0 _
  | rnd _ _ => exact Laws.RoundTrip.rnd _ _
  | drw _ _ _ => exact Laws.RoundTrip.drw _ _ _
  | skp _ => exact Laws.RoundTrip.skp _
  | sknp _ => exact Laws.RoundTrip.sknp _
  | ldVxDt _ => exact Laws.RoundTrip.ldVxDt _
  | ldVxK _ => exact Laws.RoundTrip.ldVxK _
  | ldDtVx _ => exact Laws.RoundTrip.ldDtVx _
  | ldStVx _ => exact Laws.RoundTrip.ldStVx _
  | addI _ => exact Laws.RoundTrip.addI _
  | ldF _ => exact Laws.RoundTrip.ldF _
  | ldB _ => exact Laws.RoundTrip.ldB _
  | storeRegs _ => exact Laws.RoundTrip.storeRegs _
  | loadRegs _ => exact Laws.RoundTrip.loadRegs _

/-- Settles O1: a well formed instruction's two bytes make its canonical word again, which decodes to it. -/
theorem decodeOfEncodeIsIdentity : Obligations.DecodeOfEncodeIsIdentity := by
  refine fun i rest => ⟨i.wellFormed_eq_true, ?_⟩
  simp only [encodeBytes, List.cons_append, List.nil_append, decode, wordOfBytes_high_low, decodeWord_encode]

/-! ## A word whose family and sub-code are known: its views (R91) and what the masks of R104 leave of it -/

section Views

variable {op : BitVec 4} (hop : fieldOp w = op)

include hop

theorem packNnn_of_fieldOp : packNnn op (fieldNnn w) = w := by rw [← hop, word_eq_packNnn]

theorem packXkk_of_fieldOp : packXkk op (fieldX w) (fieldKk w) = w := by rw [← hop, word_eq_packXkk]

theorem packXyn_of_fieldOp : packXyn op (fieldX w) (fieldY w) (fieldN w) = w := by rw [← hop, word_eq_packXyn]

theorem packXkk_of_fieldKk {kk : Byte} (hkk : fieldKk w = kk) : packXkk op (fieldX w) kk = w := by
  rw [← hkk, packXkk_of_fieldOp hop]

theorem packXyn_of_fieldN {n : Fin 16} (hn : fieldN w = n) : packXyn op (fieldX w) (fieldY w) n = w := by
  rw [← hn, packXyn_of_fieldOp hop]

theorem and_F000_of_fieldOp : w &&& 0xF000 = packXyn op 0 0 0 := by
  conv_lhs => rw [← word_eq_packXyn w, show (0xF000 : Word) = packXyn 15#4 0 0 0 from rfl, packXyn_and_packXyn]
  simp only [nibble_and_zero, op_and_ones, hop]

theorem and_F00F_of_fieldN {n : Fin 16} (hn : fieldN w = n) : w &&& 0xF00F = packXyn op 0 0 n := by
  conv_lhs => rw [← word_eq_packXyn w, show (0xF00F : Word) = packXyn 15#4 0 0 15 from rfl, packXyn_and_packXyn]
  simp only [nibble_and_zero, nibble_and_ones, op_and_ones, hop, hn]

theorem and_F0FF_of_fieldKk {kk : Byte} (hkk : fieldKk w = kk) : w &&& 0xF0FF = packXkk op 0 kk := by
  rw [and_F0FF, hop, hkk]

end Views

/-! ## The rows of the opcode map are sound -/

/-- Every word of the row decodes to the row's instruction, whose canonical word is that word without its ignored bits. -/
def OpcodeRow.Sound (r : OpcodeRow) : Prop :=
  ∀ w, w &&& r.mask = r.pattern → decodeWord w = some (r.build w) ∧ encode (r.build w) = w &&& careMask (r.build w)

/-- A row without ignored bits is sound when each of its words is canonical. -/
theorem OpcodeRow.Sound.of_encode_eq (h : ∀ w, w &&& r.mask = r.pattern → encode (r.build w) = w)
    (hcare : ∀ w, careMask (r.build w) = 0xFFFF := by exact fun _ => rfl) : r.Sound := by
  intro w hw
  have henc := h w hw
  constructor
  · rw [← decodeWord_encode (r.build w), henc]
  · rw [hcare, and_FFFF, henc]

theorem opcodeMapA_sound : opcodeMapA.Forall OpcodeRow.Sound := by
  refine ⟨fun w h => ?cls, fun w h => ?ret, ?jp, ?call, ?_, ?_, fun w h => ?seReg, fun w h => ?sneReg, ?_, ?_⟩
  case cls =>
    have hop : fieldOp w = 0x0#4 := fieldOp_of_mask h rfl
    have hkk : fieldKk w = 0xE0#8 := fieldKk_of_mask h rfl
    exact ⟨by simp [decodeWord, decodeFamily0, hop, hkk], h.symm⟩
  case ret =>
    have hop : fieldOp w = 0x0#4 := fieldOp_of_mask h rfl
    have hkk : fieldKk w = 0xEE#8 := fieldKk_of_mask h rfl
    exact ⟨by simp [decodeWord, decodeFamily0, hop, hkk], h.symm⟩
  case seReg =>
    have hop : fieldOp w = 0x5#4 := fieldOp_of_mask h rfl
    exact ⟨by simp [decodeWord, hop], by rw [careMask, and_FFF0, hop]; rfl⟩
  case sneReg =>
    have hop : fieldOp w = 0x9#4 := fieldOp_of_mask h rfl
    exact ⟨by simp [decodeWord, hop], by rw [careMask, and_FFF0, hop]; rfl⟩
  case jp | call => exact .of_encode_eq fun _ h => packNnn_of_fieldOp (fieldOp_of_mask h rfl)
  all_goals exact .of_encode_eq fun _ h => packXkk_of_fieldOp (fieldOp_of_mask h rfl)

theorem opcodeMapB_sound : opcodeMapB.Forall OpcodeRow.Sound := by
  refine ⟨?_, ?_, ?_, ?_, ?_, ?_, ?_, fun w h => ?shr, fun w h => ?shl, ?ldI, ?jpV0, ?rnd, ?drw⟩
  case shr =>
    have hop : fieldOp w = 0x8#4 := fieldOp_of_mask h rfl
    have hn : fieldN w = 0x6 := fieldN_of_mask h rfl
    exact ⟨by simp [decodeWord, decodeFamily8, hop, hn], by rw [careMask, and_FF0F, hop, hn]; rfl⟩
  case shl =>
    have hop : fieldOp w = 0x8#4 := fieldOp_of_mask h rfl
    have hn : fieldN w = 0xE := fieldN_of_mask h rfl
    exact ⟨by simp [decodeWord, decodeFamily8, hop, hn], by rw [careMask, and_FF0F, hop, hn]; rfl⟩
  case ldI | jpV0 => exact .of_encode_eq fun _ h => packNnn_of_fieldOp (fieldOp_of_mask h rfl)
  case rnd => exact .of_encode_eq fun _ h => packXkk_of_fieldOp (fieldOp_of_mask h rfl)
  case drw => exact .of_encode_eq fun _ h => packXyn_of_fieldOp (fieldOp_of_mask h rfl)
  all_goals exact .of_encode_eq fun _ h => packXyn_of_fieldN (fieldOp_of_mask h rfl) (fieldN_of_mask h rfl)

theorem opcodeMapC_sound : opcodeMapC.Forall OpcodeRow.Sound := by
  refine ⟨?_, ?_, ?_, ?_, ?_, ?_, ?_, ?_, ?_, ?_, ?_⟩ <;>
    exact .of_encode_eq fun _ h => packXkk_of_fieldKk (fieldOp_of_mask h rfl) (fieldKk_of_mask h rfl)

theorem opcodeMap_sound (hr : r ∈ opcodeMap) : r.Sound :=
  List.forall_iff_forall_mem.1
    (List.forall_append.2 ⟨List.forall_append.2 ⟨opcodeMapA_sound, opcodeMapB_sound⟩, opcodeMapC_sound⟩) r hr

theorem opcodeMap_encodes (hr : r ∈ opcodeMap) : Encodes r.mask r.pattern r.build :=
  fun w hw => (opcodeMap_sound hr w hw).1

/-- Settles O3: its rows are those of the opcode map, which has SUBN before SHR. -/
theorem everyEncodingHasItsMaskAndFields : Obligations.EveryEncodingHasItsMaskAndFields := by
  have row (k : Fin 34) := opcodeMap_encodes (List.getElem_mem (l := opcodeMap) k.isLt)
  exact ⟨row 0, row 1, row 2, row 3, row 4, row 5, row 6, row 7, row 8, row 9, row 10, row 11, row 12, row 13, row 14,
    row 15, row 17, row 16, row 18, row 19, row 20, row 21, row 22, row 23, row 24, row 25, row 26, row 27, row 28, row 29,
    row 30, row 31, row 32, row 33⟩

/-! ## The rows of the opcode map are complete -/

section Complete

variable {i : Instr}

/-- The witness that a word belongs to a row: the row's place in the map, and the masked comparison. -/
theorem exists_row (k : Fin 34) (hk : w &&& (opcodeMap[k.val]'k.isLt).mask = (opcodeMap[k.val]'k.isLt).pattern) :
    ∃ r ∈ opcodeMap, w &&& r.mask = r.pattern := ⟨_, List.getElem_mem k.isLt, hk⟩

theorem exists_row_of_decodeFamily0 (hop : fieldOp w = 0x0#4) (h : decodeFamily0 w = some i) :
    ∃ r ∈ opcodeMap, w &&& r.mask = r.pattern := by
  unfold decodeFamily0 at h
  split at h
  · next hkk => exact exists_row 0 (and_F0FF_of_fieldKk hop hkk)
  · next hkk => exact exists_row 1 (and_F0FF_of_fieldKk hop hkk)
  · cases h

theorem exists_row_of_decodeFamily8 (hop : fieldOp w = 0x8#4) (h : decodeFamily8 w = some i) :
    ∃ r ∈ opcodeMap, w &&& r.mask = r.pattern := by
  unfold decodeFamily8 at h
  split at h
  · next hn => exact exists_row 10 (and_F00F_of_fieldN hop hn)
  · next hn => exact exists_row 11 (and_F00F_of_fieldN hop hn)
  · next hn => exact exists_row 12 (and_F00F_of_fieldN hop hn)
  · next hn => exact exists_row 13 (and_F00F_of_fieldN hop hn)
  · next hn => exact exists_row 14 (and_F00F_of_fieldN hop hn)
  · next hn => exact exists_row 15 (and_F00F_of_fieldN hop hn)
  · next hn => exact exists_row 17 (and_F00F_of_fieldN hop hn)
  · next hn => exact exists_row 16 (and_F00F_of_fieldN hop hn)
  · next hn => exact exists_row 18 (and_F00F_of_fieldN hop hn)
  · cases h

theorem exists_row_of_decodeFamilyE (hop : fieldOp w = 0xE#4) (h : decodeFamilyE w = some i) :
    ∃ r ∈ opcodeMap, w &&& r.mask = r.pattern := by
  unfold decodeFamilyE at h
  split at h
  · next hkk => exact exists_row 23 (and_F0FF_of_fieldKk hop hkk)
  · next hkk => exact exists_row 24 (and_F0FF_of_fieldKk hop hkk)
  · cases h

theorem exists_row_of_decodeFamilyF (hop : fieldOp w = 0xF#4) (h : decodeFamilyF w = some i) :
    ∃ r ∈ opcodeMap, w &&& r.mask = r.pattern := by
  unfold decodeFamilyF at h
  split at h
  · next hkk => exact exists_row 25 (and_F0FF_of_fieldKk hop hkk)
  · next hkk => exact exists_row 29 (and_F0FF_of_fieldKk hop hkk)
  · next hkk => exact exists_row 26 (and_F0FF_of_fieldKk hop hkk)
  · next hkk => exact exists_row 27 (and_F0FF_of_fieldKk hop hkk)
  · next hkk => exact exists_row 28 (and_F0FF_of_fieldKk hop hkk)
  · next hkk => exact exists_row 30 (and_F0FF_of_fieldKk hop hkk)
  · next hkk => exact exists_row 31 (and_F0FF_of_fieldKk hop hkk)
  · next hkk => exact exists_row 32 (and_F0FF_of_fieldKk hop hkk)
  · next hkk => exact exists_row 33 (and_F0FF_of_fieldKk hop hkk)
  · cases h

/-- A word that decodes belongs to a row: one row for each branch of the decoder that answers an instruction. -/
theorem exists_row_of_decodeWord (h : decodeWord w = some i) : ∃ r ∈ opcodeMap, w &&& r.mask = r.pattern := by
  unfold decodeWord at h
  split at h
  case h_1 hop => exact exists_row_of_decodeFamily0 hop h
  case h_2 hop => exact exists_row 2 (and_F000_of_fieldOp hop)
  case h_3 hop => exact exists_row 3 (and_F000_of_fieldOp hop)
  case h_4 hop => exact exists_row 4 (and_F000_of_fieldOp hop)
  case h_5 hop => exact exists_row 5 (and_F000_of_fieldOp hop)
  case h_6 hop => exact exists_row 6 (and_F000_of_fieldOp hop)
  case h_7 hop => exact exists_row 8 (and_F000_of_fieldOp hop)
  case h_8 hop => exact exists_row 9 (and_F000_of_fieldOp hop)
  case h_9 hop => exact exists_row_of_decodeFamily8 hop h
  case h_10 hop => exact exists_row 7 (and_F000_of_fieldOp hop)
  case h_11 hop => exact exists_row 19 (and_F000_of_fieldOp hop)
  case h_12 hop => exact exists_row 20 (and_F000_of_fieldOp hop)
  case h_13 hop => exact exists_row 21 (and_F000_of_fieldOp hop)
  case h_14 hop => exact exists_row 22 (and_F000_of_fieldOp hop)
  case h_15 hop => exact exists_row_of_decodeFamilyE hop h
  case h_16 hop => exact exists_row_of_decodeFamilyF hop h
  case h_17 => cases h

end Complete

/-- Settles O2: a word that decodes belongs to a row, and the row is sound. -/
theorem encodeOfDecodeKeepsCareBits : Obligations.EncodeOfDecodeKeepsCareBits := by
  intro w i h
  obtain ⟨r, hr, hw⟩ := exists_row_of_decodeWord h
  obtain ⟨hdec, henc⟩ := opcodeMap_sound hr w hw
  cases h.symm.trans hdec
  exact henc

/-! ## The rows of the opcode map are disjoint -/

/-- Two masked views of a word agree on the bits that both keep. -/
theorem xor_masked_and_masks (w a b : Word) : (w &&& a ^^^ w &&& b) &&& (a &&& b) = 0 := by
  ext i hi
  simp only [BitVec.getElem_and, BitVec.getElem_xor]
  cases a[i] <;> cases b[i] <;> simp

theorem OpcodeRow.not_both_of_apart {r q : OpcodeRow} (h : r.apart q = true) (w : Word) :
    ¬(w &&& r.mask = r.pattern ∧ w &&& q.mask = q.pattern) := by
  rintro ⟨hr, hq⟩
  rw [OpcodeRow.apart, ← hr, ← hq, xor_masked_and_masks] at h
  exact Bool.false_ne_true h

theorem opcodeMap_apart : opcodeMap.Pairwise fun r q => r.apart q = true := by decide

/-- Settles O4: the rows are sound, complete and disjoint. -/
theorem decoderIsTheOpcodeMap : Obligations.DecoderIsTheOpcodeMap := by
  refine ⟨fun r hr => opcodeMap_encodes hr, fun w hmiss => ?_, opcodeMap_apart.imp OpcodeRow.not_both_of_apart, rfl⟩
  rw [Option.eq_none_iff_forall_ne_some]
  intro i h
  obtain ⟨r, hr, hw⟩ := exists_row_of_decodeWord h
  exact hmiss r hr hw

/-! ## The unknown words (R99) -/

theorem fieldOp_eq_iff (op : BitVec 4) : fieldOp w = op ↔ w.toNat / 4096 = op.toNat := by
  have hw := w.isLt
  rw [← BitVec.toNat_inj, fieldOp_toNat, Nat.mod_eq_of_lt (by omega)]

theorem fieldN_eq_iff (n : Fin 16) : fieldN w = n ↔ w.toNat % 16 = n.val := by rw [Fin.ext_iff, fieldN_val]

theorem fieldKk_eq_iff (kk : Byte) : fieldKk w = kk ↔ w.toNat % 256 = kk.toNat := by
  rw [← BitVec.toNat_inj, fieldKk_toNat]

theorem decodeFamily0_eq_none_iff : decodeFamily0 w = none ↔ fieldKk w ∉ [0xE0#8, 0xEE#8] := by
  unfold decodeFamily0
  split <;> simp_all

theorem decodeFamily8_eq_none_iff : decodeFamily8 w = none ↔ fieldN w ∈ [0x8, 0x9, 0xA, 0xB, 0xC, 0xD, 0xF] := by
  unfold decodeFamily8
  generalize fieldN w = n
  split
  case h_10 => revert n; decide
  all_goals simp

theorem decodeFamilyE_eq_none_iff : decodeFamilyE w = none ↔ fieldKk w ∉ [0x9E#8, 0xA1#8] := by
  unfold decodeFamilyE
  split <;> simp_all

theorem decodeFamilyF_eq_none_iff : decodeFamilyF w = none ↔
    fieldKk w ∉ [0x07#8, 0x0A#8, 0x15#8, 0x18#8, 0x1E#8, 0x29#8, 0x33#8, 0x55#8, 0x65#8] := by
  unfold decodeFamilyF
  split <;> simp_all

/-- Only the families with a sub-code have unknown words; the last branch of the decoder is met by no word. -/
theorem decodeWord_eq_none_iff : decodeWord w = none ↔
    (fieldOp w = 0x0#4 ∧ decodeFamily0 w = none) ∨ (fieldOp w = 0x8#4 ∧ decodeFamily8 w = none) ∨
    (fieldOp w = 0xE#4 ∧ decodeFamilyE w = none) ∨ (fieldOp w = 0xF#4 ∧ decodeFamilyF w = none) := by
  unfold decodeWord
  split
  case h_17 =>
    exfalso
    generalize fieldOp w = op at *
    revert op
    decide
  all_goals simp [*]

/-- Settles O5: the sub-codes each family does not know, with the fields as numbers. -/
theorem unknownWordsAreExactlyThese : Obligations.UnknownWordsAreExactlyThese := by
  intro w
  rw [decodeWord_eq_none_iff, decodeFamily0_eq_none_iff, decodeFamily8_eq_none_iff, decodeFamilyE_eq_none_iff,
    decodeFamilyF_eq_none_iff]
  simp only [List.mem_cons, List.not_mem_nil, or_false, fieldOp_eq_iff, fieldN_eq_iff, fieldKk_eq_iff]
  rfl

/-- Settles O6: twelve runs of the decoder. -/
theorem sampleWordsDecode : Obligations.SampleWordsDecode := by
  unfold Obligations.SampleWordsDecode
  decide

end Sys2Proof
end

section
/-! PROOFS (30_encoding.md, 10_state.md). The whole step (O7) and its totality (O11), the state no instruction reads (O17),
the invariant at reset (O21), and a CALL with its RET over two steps (O33). -/

namespace Sys2Proof.Machine

variable {s t : State} {i : Instr}

/-- An instruction that leaves HALT = 0 is followed by the tick (R110). -/
theorem step_of_exec (hs : s.halt = false) (hi : s.NextIs i) (h : exec i s = .next t) (ht : t.halt = false) :
    step s = .next (t.tick none) := by
  rw [step_of_nextIs hs hi, h, endStep_next, ht]
  rfl

/-- Settles O7: the four equations of a step, and an instruction always answers a next state. -/
theorem stepRunsDecodedInstruction : Obligations.StepRunsDecodedInstruction := by
  refine fun s => ⟨step_of_halt, fun hs hpc => step_of_fetch_fault hs hpc,
    fun hs hpc hd => step_of_unknown hs (fetchWord_of_le hpc) hd, fun i hs hi => ?_⟩
  obtain ⟨t, h⟩ := exec_next i s
  exact ⟨t, h, fun ht => by rw [step_of_nextIs hs hi, h, endStep_next, if_pos ht], step_of_exec hs hi h⟩

/-- Settles O11: `step_cases`, where an instruction's state ends the step. -/
theorem stepAlwaysAnswersNext : Obligations.StepAlwaysAnswersNext := by
  intro s
  rcases step_cases s with ⟨-, h⟩ | ⟨-, -, h⟩ | ⟨w, -, -, -, -, h⟩ | ⟨w, i, -, -, -, -, h⟩
  · exact ⟨_, h⟩
  · exact ⟨_, h⟩
  · exact ⟨_, h⟩
  · obtain ⟨t, ht⟩ := exec_next i s
    rw [ht, endStep_next] at h
    exact ⟨_, h⟩

/-! ## State that no instruction reads -/

/-- The state `u` with the fields that no instruction reads taken from `t`. -/
def State.withUnreadOf (t u : State) : State :=
  { u with st := t.st, draw := t.draw, halt := t.halt, cause := t.cause, out := t.out }

/-- An instruction that goes on under the condition `c` and takes a fault otherwise does alike in two states that differ
in unread fields only, when `c` is the condition in both. -/
theorem unread_of_dite {s' : State} {f : Fault} {c : Prop} [Decidable c] {a b : c → State}
    {o o' : Host.Outcome State Fault Refusal} (ho : o = .next (if hc : c then a hc else s.takeFault f))
    (ho' : o' = .next (if hc : c then b hc else s'.takeFault f)) (hs : s.withUnreadOf s' = s)
    (hab : ∀ hc, (a hc).withUnreadOf (b hc) = a hc) (h : o = .next t) : ∃ u, o' = .next u ∧ t.withUnreadOf u = t := by
  refine ⟨_, ho', ?_⟩
  rw [ho] at h
  cases h
  by_cases hc : c
  · rw [dif_pos hc, dif_pos hc, hab]
  · rw [dif_neg hc, dif_neg hc]
    exact congrArg (State.takeFault · f) hs

/-- Settles O17: no condition and no result reads one of the five fields, so both states do alike. -/
theorem unreadStateDoesNotInfluence : Obligations.UnreadStateDoesNotInfluence := by
  intro i s t _ _ _ _ _ h
  cases i with
  | ret => exact unread_of_dite (exec_ret s) (exec_ret _) rfl (fun _ => rfl) h
  | call _ => exact unread_of_dite (exec_call s _) (exec_call _ _) rfl (fun _ => rfl) h
  | drw _ _ _ => exact unread_of_dite (exec_drw s _ _ _) (exec_drw _ _ _ _) rfl (fun _ => rfl) h
  | skp _ => exact unread_of_dite (exec_skp s _) (exec_skp _ _) rfl (fun _ => rfl) h
  | sknp _ => exact unread_of_dite (exec_sknp s _) (exec_sknp _ _) rfl (fun _ => rfl) h
  | ldB _ => exact unread_of_dite (exec_ldB s _) (exec_ldB _ _) rfl (fun _ => rfl) h
  | storeRegs _ => exact unread_of_dite (exec_storeRegs s _) (exec_storeRegs _ _) rfl (fun _ => rfl) h
  | loadRegs _ => exact unread_of_dite (exec_loadRegs s _) (exec_loadRegs _ _) rfl (fun _ => rfl) h
  | ldVxK _ =>
    cases hk : s.lowestKey with
    | some k => rw [exec_ldVxK_of_some hk] at h; cases h; exact ⟨_, exec_ldVxK_of_some hk, rfl⟩
    | none => rw [exec_ldVxK_of_none hk] at h; cases h; exact ⟨_, exec_ldVxK_of_none hk, rfl⟩
  | _ => cases h; exact ⟨_, rfl, rfl⟩

/-! ## Reset -/

/-- Settles O21: `resetWith_inv`, of which the default FONT is one case. -/
theorem resetMeetsTheInvariant : Obligations.ResetMeetsTheInvariant := ⟨resetWith_inv defaultFont, resetWith_inv⟩

/-! ## CALL, then RET -/

/-- An instruction that writes no memory leaves every byte. -/
theorem Keeps.byteAt {e : Effects} (h : Keeps e s t) (he : e.bytes = none) (a : Nat) : t.byteAt a = s.byteAt a :=
  h.bytes a (by rw [Effects.outside, he]; trivial)

theorem Keeps.wordAt {e : Effects} (h : Keeps e s t) (he : e.bytes = none) (a : Nat) : t.wordAt a = s.wordAt a :=
  congrArg₂ wordOfBytes (h.byteAt he a) (h.byteAt he (a + 1))

/-- Settles O33: CALL leaves memory, so the next step fetches the RET, which pops the slot that CALL wrote. -/
theorem callThenRetComesBack : Obligations.CallThenRetComesBack := by
  intro s nnn hs hsp hcall hnnn hret
  obtain ⟨c, hc, hslot, hcsp, hcpc, hckeeps⟩ := callPushesOrOverflows.1 s nnn ⟨s.sp.val, hsp⟩ rfl
  obtain ⟨r, hr, hrpc, hrsp, hrkeeps⟩ := retPopsOrUnderflows.1 (c.tick none) ⟨s.sp.val, hsp⟩ hcsp
  have hchalt : (c.tick none).halt = false := hckeeps.halt.trans hs
  have hword : (c.tick none).wordAt nnn.toNat = s.wordAt nnn.toNat := hckeeps.wordAt rfl nnn.toNat
  have hnext : (c.tick none).NextIs .ret := by
    refine ⟨hcpc.trans_le hnnn, ?_⟩
    rw [tick_pc, hcpc, hword, hret]
  refine ⟨_, _, step_of_exec hs hcall hc hchalt, hcsp, hcpc,
    step_of_exec hchalt hnext hr (hrkeeps.halt.trans hchalt), Fin.ext hrsp, hrpc.trans ?_⟩
  have hpc : s.pc.toNat ≤ 0xFFE := hcall.1
  rw [tick_stack, hslot]
  omega

end Sys2Proof.Machine
end

section
/-! PROOFS (95_test_vectors.md). Several instructions in a row: counting by one (O43), a sprite drawn twice (O46), a dump
and a load (O57). Each proof chains the statements of the single instructions. -/

namespace Sys2Proof.Machine

variable {s t : State}

/-! ## Counting -/

theorem repeatExec_succ {i : Instr} {k : Nat} (h : repeatExec i k s = .next t) :
    repeatExec i (k + 1) s = exec i t := by
  rw [repeatExec, h]

/-- Settles O43: by induction on the number of executions, each one O40's or O35's step. -/
theorem countingByOneWrapsAndCarriesOnce : Obligations.CountingByOneWrapsAndCarriesOnce := by
  constructor
  · intro s x y k hxy hx hy hone
    induction k with
    | zero => exact ⟨s, rfl, (Nat.mod_eq_of_lt (s.reg x).isLt).symm, rfl, fun h => absurd h (Nat.lt_irrefl 0)⟩
    | succ k ih =>
      obtain ⟨t, ht, hcount, hty, -⟩ := ih
      obtain ⟨u, hu, hsum, hflag, -, hkeeps⟩ := addRegSetsCarry t x y
      have huy : u.reg y = t.reg y := hkeeps.regs y (by simp [hxy.symm, hy])
      have hsum := hsum hx
      rw [hty, hone] at hsum hflag
      refine ⟨u, (repeatExec_succ ht).trans hu, by omega, huy.trans hty, fun _ => ?_⟩
      rw [hflag]
      split <;> omega
  · intro s x k
    induction k with
    | zero => exact ⟨s, rfl, (Nat.mod_eq_of_lt (s.reg x).isLt).symm, fun _ => rfl⟩
    | succ k ih =>
      obtain ⟨t, ht, hcount, hvf⟩ := ih
      obtain ⟨u, hu, hsum, -, hkeeps⟩ := addImmWrapsWithoutFlag t x 1
      have hone : (1 : Byte).toNat = 1 := rfl
      refine ⟨u, (repeatExec_succ ht).trans hu, by omega, fun hx => ?_⟩
      rw [hkeeps.regs 15 (by simpa using hx.symm), hvf hx]

/-! ## Drawing twice -/

/-- An instruction that writes neither I nor memory leaves the sprite at I where it is. -/
theorem Keeps.spriteOn_iff {e : Effects} (h : Keeps e s t) (hi : e.i = false) (he : e.bytes = none) {vx vy : Byte}
    {n : Nat} {j : Fin 32} {i : Fin 64} : t.SpriteOn vx vy n j i ↔ s.SpriteOn vx vy n j i := by
  simp only [State.SpriteOn, State.dataAddr, h.i hi, h.byteAt he]

/-- Settles O46: the second draw has the first one's sprite and coordinates, so it toggles the same cells back, and it
collides on the cells under the sprite that were off at the start. -/
theorem drawingTwiceRestoresThePicture : Obligations.DrawingTwiceRestoresThePicture := by
  intro s x y n hx hy hrange
  obtain ⟨t, ht, hton, htoff, -, -, -, -, hkeeps⟩ := drwXorsTheSpriteWithWrap.1 s x y n hrange
  have hti : t.i = s.i := hkeeps.i rfl
  have htx : t.reg x = s.reg x := hkeeps.regs x (by simpa using hx)
  have hty : t.reg y = s.reg y := hkeeps.regs y (by simpa using hy)
  obtain ⟨u, hu, huon, huoff, hhit, hmiss, hdraw, -, -⟩ := drwXorsTheSpriteWithWrap.1 t x y n (by rwa [hti])
  simp only [hkeeps.spriteOn_iff rfl rfl, htx, hty] at huon huoff hhit hmiss
  refine ⟨t, u, ht, hu, fun j i => ?_, ⟨fun hvf => ?_, fun ⟨j, i, hon, hoff⟩ => hhit ⟨j, i, hon, ?_⟩⟩, hdraw⟩
  · by_cases hon : s.SpriteOn (s.reg x) (s.reg y) n j i
    · rw [huon j i hon, hton j i hon, Bool.not_not]
    · rw [huoff j i hon, htoff j i hon]
  · by_contra hnone
    have hvf0 : u.reg 15 = 0 := hmiss fun j i hon => by
      rw [hton j i hon, Bool.not_eq_false']
      by_contra hoff
      exact hnone ⟨j, i, hon, Bool.eq_false_of_not_eq_true hoff⟩
    exact absurd (hvf0.symm.trans hvf) (by decide)
  · rw [hton j i hon, hoff]
    rfl

/-! ## A dump, then a load -/

/-- Settles O57: the load reads back the bytes that the dump stored, and both move I from the same base. -/
theorem dumpThenLoadRoundTrips : Obligations.DumpThenLoadRoundTrips := by
  intro s x v hwf hle
  obtain ⟨t, ht, hbytes, hti, -, -⟩ := storeRegsDumpsAndAdvancesI.1 s x hwf hle
  obtain ⟨u, hu, hlow, hhigh, hui, -, hkeeps⟩ := loadRegsLoadsAndAdvancesI.1 { t with i := s.i, v := v } x hle
  exact ⟨t, u, ht, hu, fun k hk => (hlow k hk).trans (hbytes k hk), hhigh,
    BitVec.eq_of_toNat_eq (hui.trans hti.symm), hkeeps.byteAt rfl⟩

end Sys2Proof.Machine
end
